-- ==== Sys2Proof/Word.lean ====
section
/-! DEFINITION. The word types of the block: bytes (00_scope.md R10) and the 40-bit unit word `W` (R15). -/

namespace Sys2Proof

/-- A byte: 8 bits, bit 0 the least significant (00_scope.md R10). -/
abbrev Byte := BitVec 8

/-- The unit word `W`: the five bytes of a scan unit as one 40-bit number, byte 0 least significant
(00_scope.md R15, 20_memory.md R42). -/
abbrev UnitWord := BitVec 40

end Sys2Proof
end

