-- ==== Sys2Proof/Config.lean ====
section
/-! DEFINITION. The constants and parameters of 00_scope.md R7 to R9. -/

namespace Sys2Proof.Config

/-- `UNIT_BYTES` (00_scope.md R7). -/
def unitBytes : Nat := 5
/-- `CHUNK_BYTES` (00_scope.md R7). -/
def chunkBytes : Nat := 256
/-- `RES_MAX` (00_scope.md R7). -/
def resMax : Nat := 4
/-- `HEALTH_LEN` (00_scope.md R7). -/
def healthLen : Nat := 10
/-- `INFO_LEN` (00_scope.md R7). -/
def infoLen : Nat := 27
/-- `ACK_LEN` (00_scope.md R7). -/
def ackLen : Nat := 7
/-- `BOOT_LEN` (00_scope.md R7). -/
def bootLen : Nat := 56
/-- The length of the Info serial number: offsets 11 to 26 (30_encoding.md R63). -/
def serialLen : Nat := 16

/-- `PRE_HEALTH` (00_scope.md R7). -/
def preHealth : List Byte := [0xA5, 0x5A, 0x03, 0x00, 0x00, 0x00, 0x06]
/-- `PRE_INFO` (00_scope.md R7). -/
def preInfo : List Byte := [0xA5, 0x5A, 0x14, 0x00, 0x00, 0x00, 0x04]
/-- `SEQ_ACK` (00_scope.md R7). -/
def seqAck : List Byte := [0xA5, 0x5A, 0x05, 0x00, 0x00, 0x40, 0x81]
/-- The default of `BOOT_PREFIX` (00_scope.md R8, 90_conflicts.md C3). UNVERIFIED literal: log entry 17. -/
def bootPrefixDefault : List Byte := [0x52, 0x50, 0x20, 0x4C, 0x49, 0x44, 0x41, 0x52]

/-- The configuration fields of the block, fixed for the machine: no operation writes them. -/
structure Settings where
  /-- `BOOT_PREFIX`, of length `BOOT_PREFIX_LEN` (00_scope.md R8, 92_eei_decisions.md D28). -/
  bootPrefix : List Byte := bootPrefixDefault
  deriving DecidableEq, Repr

/-- The configuration with every field at its default. -/
def standard : Settings := {}

/-- `BOOT_PREFIX_LEN` ≤ `BOOT_LEN` (00_scope.md R8). -/
def Settings.ok (cfg : Settings) : Bool := decide (cfg.bootPrefix.length ≤ bootLen)

/-- `START_FLAG` (00_scope.md R7). -/
def startFlag : Byte := 0xA5
/-- `ANGLE_DIV` (00_scope.md R7). -/
def angleDiv : Nat := 64
/-- `DIST_DIV` (00_scope.md R7). -/
def distDiv : Nat := 4
/-- `ANGLE_MAX_DEG` (00_scope.md R7). -/
def angleMaxDeg : Nat := 360
/-- `ANGLE_MAX_RAW` = 360 × 64 = 23040 (00_scope.md R7). -/
def angleMaxRaw : Nat := angleMaxDeg * angleDiv

/-- `RX_MAX`: the largest buffer length the hardware length counter distinguishes (00_scope.md R9). -/
def rxMax : Nat := 256
/-- `CK_INIT` (00_scope.md R9, 40_checksum_generator.md R91). UNVERIFIED: log entry 15. -/
def ckInit : Byte := 0x00

end Sys2Proof.Config
end

