-- ==== Sys2Proof/Machine/Operands.lean ====
section
/-! DEFINITION. Operand forms: reading bytes and little-endian numbers from a byte sequence (20_memory.md R44), the
fields of a scan unit (30_encoding.md R69, R70) and of the replies (R71), and the bytes that hold such fields. -/

namespace Sys2Proof.Machine

/-- `q[i]`, the byte at offset `i` (00_scope.md R11). No rule reads at or beyond the length (20_memory.md R41). -/
def byteAt (q : List Byte) (i : Nat) : Byte := q.getD i 0

/-- `q[i .. i+n−1]` (00_scope.md R11). -/
def slice (q : List Byte) (i n : Nat) : List Byte := (q.drop i).take n

/-- The number a byte sequence stands for, first byte least significant (20_memory.md R43). -/
def leValue : List Byte → Nat
  | [] => 0
  | x :: xs => x.toNat + 256 * leValue xs

/-- `MemRead(addr, n)` on the sequence `q` (20_memory.md R44). -/
def memRead (q : List Byte) (addr n : Nat) : Nat := leValue (slice q addr n)

/-- The `n` bytes of the number `v`, least significant first (20_memory.md R43). -/
def leBytes : Nat → Nat → List Byte
  | 0, _ => []
  | n + 1, v => BitVec.ofNat 8 v :: leBytes n (v / 256)

/-- The unit word `W` of five bytes (42_scan_unpacker.md R141). -/
def unitWord (u : List Byte) : UnitWord := BitVec.ofNat 40 (memRead u 0 5)

/-- The five bytes of a unit word, byte 0 first (20_memory.md R42). -/
def unitBytes (w : UnitWord) : List Byte := leBytes 5 w.toNat

/-- `Q = W[7:2]` (30_encoding.md R69). -/
def fieldQ (w : UnitWord) : BitVec 6 := w.extractLsb' 2 6
/-- `A = W[23:9]` (30_encoding.md R69). The byte order is decision D3: log entry 16. -/
def fieldA (w : UnitWord) : BitVec 15 := w.extractLsb' 9 15
/-- `D = W[39:24]` (30_encoding.md R69). -/
def fieldD (w : UnitWord) : BitVec 16 := w.extractLsb' 24 16

/-- The unit word with the given fields, placed as 30_encoding.md R69 places them. -/
def packUnit (s ns : Bool) (q : BitVec 6) (c : Bool) (a : BitVec 15) (d : BitVec 16) : UnitWord :=
  BitVec.ofNat 40
    (s.toNat + 2 * ns.toNat + 4 * q.toNat + 256 * c.toNat + 512 * a.toNat + 16777216 * d.toNat)

/-- `ENC(S, Q, A, D)`: the fixture encoder of 42_scan_unpacker.md R152 (`U(S, Q, A, D)` of 30_encoding.md R78). -/
def encUnit (s : Bool) (q : BitVec 6) (a : BitVec 15) (d : BitVec 16) : List Byte :=
  unitBytes (packUnit s (!s) q true a d)

/-- `status = b[7]` of a Health buffer, unmasked (30_encoding.md R71). -/
def healthStatus (b : List Byte) : Byte := byteAt b 7
/-- `error_code = MemRead(8, 2)` of a Health buffer (30_encoding.md R71). -/
def healthErrorCode (b : List Byte) : BitVec 16 := BitVec.ofNat 16 (memRead b 8 2)
/-- `model = b[7]` of an Info buffer (30_encoding.md R71). -/
def infoModel (b : List Byte) : Byte := byteAt b 7
/-- `firmware_minor = b[8]` (30_encoding.md R71). -/
def infoFirmwareMinor (b : List Byte) : Byte := byteAt b 8
/-- `firmware_major = b[9]` (30_encoding.md R71). -/
def infoFirmwareMajor (b : List Byte) : Byte := byteAt b 9
/-- `hardware = b[10]` (30_encoding.md R71). -/
def infoHardware (b : List Byte) : Byte := byteAt b 10
/-- `serial = b[11..26]`, in order of arrival (30_encoding.md R71). -/
def infoSerial (b : List Byte) : List Byte := slice b 11 Config.serialLen
/-- The bytes of a boot announcement after its prefix: 8 to 55 at the default (30_encoding.md R65). -/
def bootTail (cfg : Config.Settings) (b : List Byte) : List Byte := b.drop cfg.bootPrefix.length

end Sys2Proof.Machine
end

