-- ==== Sys2Proof/Machine/Flags.lean ====
section
/-! DEFINITION. The one-bit quantities of a scan unit and the three checks that consume them (10_state.md R25,
42_scan_unpacker.md R143 to R145). -/

namespace Sys2Proof.Machine

/-- `S = W[0]`, startFlag (30_encoding.md R69). -/
def flagS (w : UnitWord) : Bool := w.getLsbD 0
/-- `NS = W[1]`, inverseStart (30_encoding.md R69). -/
def flagNS (w : UnitWord) : Bool := w.getLsbD 1
/-- `C = W[8]`, checkBit (30_encoding.md R69). -/
def flagC (w : UnitWord) : Bool := w.getLsbD 8

/-- Check 1, START_PAIR: passes when `S` differs from `NS` (42_scan_unpacker.md R143). -/
def pairOk (s ns : Bool) : Bool := s != ns
/-- Check 2, CHECK_BIT: passes when `C` = 1 (42_scan_unpacker.md R144). -/
def checkOk (c : Bool) : Bool := c
/-- Check 3, ANGLE_RANGE: passes when `A` ≤ 23040 (42_scan_unpacker.md R145). -/
def angleOk (a : BitVec 15) : Bool := decide (a.toNat ≤ Config.angleMaxRaw)

end Sys2Proof.Machine
end

