-- ==== Sys2Proof/Machine/Fold.lean ====
section
/-! DEFINITION. The checksum fold and the bytes of a request frame (40_checksum_generator.md R91, R95, R96). The fold
function is the spec's decision D14, from general knowledge: UNVERIFIED, log entry 15. -/

namespace Sys2Proof.Machine

/-- `CK_FN`: one byte folded into the running checksum (40_checksum_generator.md R91, R93). -/
def ckFn (a x : Byte) : Byte := a ^^^ x

/-- `CK(q)` (40_checksum_generator.md R91). -/
def ck (q : List Byte) : Byte := q.foldl ckFn Config.ckInit

/-- The bytes of `FRAME2 op` (40_checksum_generator.md R95). -/
def frame2Bytes (op : Byte) : List Byte := [Config.startFlag, op]

/-- The bytes of `FRAMEP op, p` before its checksum: `h = [0xA5, op, len] ++ p` (40_checksum_generator.md R96). -/
def framepHead (op : Byte) (p : List Byte) : List Byte :=
  Config.startFlag :: op :: BitVec.ofNat 8 p.length :: p

/-- The bytes of `FRAMEP op, p`: `h ++ [CK(h)]` (40_checksum_generator.md R96). -/
def framepBytes (op : Byte) (p : List Byte) : List Byte := framepHead op p ++ [ck (framepHead op p)]

end Sys2Proof.Machine
end

