-- ==== Sys2Proof/Syntax.lean ====
section
/-! DEFINITION. The operations of the block, one constructor per row of spec/opcode_table.json. -/

namespace Sys2Proof

/-- The operations (00_scope.md R15: these stand where an ISA has instructions). Operands are the fields the
formats of 30_encoding.md give; a field that a format fixes is no operand. -/
inductive Instr where
  /-- `RX` (R111): one inbound buffer with the level of `scan_en` sampled at its last byte. -/
  | rx (b : List Byte) (scanEn : Bool)
  /-- `HEALTH` (R112). -/
  | health (status : Byte) (errorCode : BitVec 16)
  /-- `INFO` (R113): `serial` is the 16 bytes in order of arrival. -/
  | info (model fmin fmaj hw : Byte) (serial : List Byte)
  /-- `SCANACK` (R114). -/
  | scanack
  /-- `BOOT` (R115): `tail` is the bytes after the prefix, ignored. -/
  | boot (tail : List Byte)
  /-- `SCANCHUNK` (R116): a 256-byte buffer with `scan_en` = 1. -/
  | scanchunk (b : List Byte)
  /-- `SCANDROP` (R117): a 256-byte buffer with `scan_en` = 0. -/
  | scandrop (b : List Byte)
  /-- `UNREC` (R118): any buffer that is none of the others. -/
  | unrec (b : List Byte)
  /-- `UNIT`, row start = 1 (R141): `S` = 1, `NS` = 0, `C` = 1. -/
  | unitStart (q : BitVec 6) (a : BitVec 15) (d : BitVec 16)
  /-- `UNIT`, row start = 0 (R141): `S` = 0, `NS` = 1, `C` = 1. -/
  | unitCont (q : BitVec 6) (a : BitVec 15) (d : BitVec 16)
  /-- `UNIT.ERR1`, row both 0 (R143): `S` = `NS` = 0. -/
  | unitErr1Zeros (q : BitVec 6) (c : Bool) (a : BitVec 15) (d : BitVec 16)
  /-- `UNIT.ERR1`, row both 1 (R143): `S` = `NS` = 1. -/
  | unitErr1Ones (q : BitVec 6) (c : Bool) (a : BitVec 15) (d : BitVec 16)
  /-- `UNIT.ERR2` (R144): `NS` = 1 − `S`, `C` = 0. -/
  | unitErr2 (s : Bool) (q : BitVec 6) (a : BitVec 15) (d : BitVec 16)
  /-- `UNIT.ERR3` (R145): `NS` = 1 − `S`, `C` = 1, angle above 23040. -/
  | unitErr3 (s : Bool) (q : BitVec 6) (a : BitVec 15) (d : BitVec 16)
  /-- `DECODE` (R147): one chunk of any length. -/
  | decode (c : List Byte)
  /-- `FRAME2` (R95). -/
  | frame2 (op : Byte)
  /-- `FRAMEP` (R96): `len` is the number of payload bytes, 0 to 255. -/
  | framep (op : Byte) (payload : List Byte)
  /-- `CKCLR` (R92). -/
  | ckclr
  /-- `CKBYTE` (R93). -/
  | ckbyte (x : Byte)
  /-- `CKREAD` (R94). -/
  | ckread
  /-- `RST` (R171). -/
  | rst
  /-- `SCANEN` (R172): the level the environment drives on `scan_en`. -/
  | scanen (level : Bool)
  /-- `RESCLR` (R173). -/
  | resclr
  deriving DecidableEq, Repr

end Sys2Proof
end

