-- ==== Sys2Proof/Machine/State.lean ====
section
/-! DEFINITION. The state of the block as plain data (10_state.md), what its ports carry, and its reset (43_host_control.md
R171). -/

namespace Sys2Proof.Machine

/-- The cause of a ParseError (30_encoding.md R82). Code 0 is never produced and has no constructor. -/
inductive Cause where
  /-- Cause 1 (60_exceptions.md R181). -/
  | startPair
  /-- Cause 2 (60_exceptions.md R182). -/
  | checkBit
  /-- Cause 3 (60_exceptions.md R183). -/
  | angleRange
  deriving DecidableEq, Repr

/-- A sample (42_scan_unpacker.md R142): the raw fields (00_scope.md R13). -/
structure Sample where
  start : Bool
  quality : BitVec 6
  angleQ6 : BitVec 15
  distQ2 : BitVec 16
  deriving DecidableEq, Repr

/-- An event (60_exceptions.md R188), a tagged value per kind (30_encoding.md R81). -/
inductive Event where
  /-- Kind 1. -/
  | health (status : Byte) (errorCode : BitVec 16)
  /-- Kind 2. -/
  | info (model firmwareMinor firmwareMajor hardware : Byte) (serial : List Byte)
  /-- Kind 3. -/
  | scanStart
  /-- Kind 4. -/
  | boot
  /-- Kind 5. -/
  | data (sample : Sample)
  /-- Kind 6: a ParseError. -/
  | error (cause : Cause)
  deriving DecidableEq, Repr

/-- A class code on the class port (30_encoding.md R80). Code 7 is never produced and has no constructor. -/
inductive ClassCode where
  | unrec | health | info | scanack | boot | scanchunk | scandrop
  deriving DecidableEq, Repr

/-- A byte on the TX stream with `tx_last` (10_state.md R30). -/
structure TxByte where
  data : Byte
  last : Bool
  deriving DecidableEq, Repr

/-- A frame request with payload whose payload bytes are being taken: `fr_opcode`, `fr_len` (10_state.md R30). -/
structure FrameReq where
  op : Byte
  len : Byte
  deriving DecidableEq, Repr

/-- What one port carries at one moment (10_state.md R26 to R31, 43_host_control.md). -/
inductive Activity where
  /-- No port is driven. -/
  | idle
  /-- A byte on the RX port with `rx_last` (R27). -/
  | rxByte (data : Byte) (last : Bool)
  /-- A byte on the direct port with `dc_last` (R31). -/
  | dcByte (data : Byte) (last : Bool)
  /-- `dc_empty`: a chunk of no bytes on the direct port (R31). -/
  | dcEmpty
  /-- `fr_valid` with `fr_opcode`, `fr_has_payload`, `fr_len` (R30). -/
  | frameReq (op : Byte) (hasPayload : Bool) (len : Byte)
  /-- A byte of the payload stream (R30). -/
  | fpByte (data : Byte)
  /-- `ck_clr`, and `ck_valid` with `ck_data` (R30). -/
  | ckPins (clr : Bool) (data : Option Byte)
  /-- The environment looks at `ck_sum` (R30, R94). -/
  | ckSum
  /-- `res_clr` for one cycle (R173). -/
  | resClr
  /-- The level on `scan_en` (R172). -/
  | scanEn (level : Bool)
  /-- The level on `ev_ready` (R29). -/
  | evReady (level : Bool)
  /-- `ev_ready` for the transfer of one event. -/
  | evTake
  /-- The level on `tx_ready` (R30). -/
  | txReady (level : Bool)
  /-- `tx_ready` for the transfer of one byte. -/
  | txTake
  deriving DecidableEq, Repr

/-- One input: what a port carries, and whether `rst` is asserted at the same moment (43_host_control.md R171). -/
structure Input where
  rst : Bool
  act : Activity
  deriving DecidableEq, Repr

/-- The transient registers of one DECODE (10_state.md R32): the cursor `POS` (R24), the flag `ABORT` (R25) and the unit
assembly register. They never survive the transaction, so they are carried by its loop and not by `State`. -/
structure Cursor where
  pos : Nat
  abort : Bool
  unit : UnitWord
  deriving DecidableEq, Repr

/-- The transient registers cleared, as at the start of every DECODE (10_state.md R24, R25, R32). -/
def Cursor.cleared : Cursor := { pos := 0, abort := false, unit := 0 }

/-- Why a step faults. The block has no fatal error (60_exceptions.md R180, R186), so there is no reason: a ParseError is
an event of a next state. Safe: nothing is stopped. -/
inductive Fault where
  deriving DecidableEq, Repr

/-- Why a step is refused. -/
inductive Refusal where
  /-- Raised by an arm of `exec` that has no meaning yet; no arm raises it. Safe. -/
  | notModelled (mnemonic : String)
  deriving DecidableEq, Repr

/-- The state of the block, its ports and the environment's inputs. -/
structure State where
  /-- The configuration of the block (00_scope.md R8). No operation and no step writes it. -/
  cfg : Config.Settings
  /-- `RES[0 .. RES_LEN−1]`, oldest byte first; its length is `RES_LEN` (10_state.md R20 to R22). -/
  res : List Byte
  /-- `ACC` (10_state.md R20, R23). -/
  acc : Byte
  /-- The level on `scan_en` (43_host_control.md R172). -/
  scanEn : Bool
  /-- The level on `ev_ready` (10_state.md R29). -/
  evReady : Bool
  /-- The level on `tx_ready` (10_state.md R30). -/
  txReady : Bool
  /-- `BUF` and `LEN`: the bytes of the buffer being received on the RX port, at most 257 (10_state.md R32). -/
  rxBuf : List Byte
  /-- The bytes of the chunk being received on the direct port (10_state.md R31). -/
  dcBuf : List Byte
  /-- The frame request in progress that still lacks payload bytes (10_state.md R30). -/
  frame : Option FrameReq
  /-- The payload bytes taken for it so far, in order (70_reset_and_hazards.md R223). -/
  fpBuf : List Byte
  /-- The events of the transaction in progress not yet transferred; the head is on the event port (10_state.md R29). -/
  evOffer : List Event
  /-- The frame bytes not yet transferred; the head is on the TX stream (10_state.md R30). -/
  txOffer : List TxByte
  /-- The class codes shown so far, in order (10_state.md R28). -/
  clsOut : List ClassCode
  /-- The events transferred so far, in order (60_exceptions.md R188). -/
  evOut : List Event
  /-- The frame bytes transferred so far, in order (10_state.md R30). -/
  txOut : List TxByte
  /-- The values `CKREAD` returned so far, in order (40_checksum_generator.md R94). -/
  sumOut : List Byte
  /-- What the environment presents and will present, in order (00_scope.md R17). An input whose port is not ready waits
  on its wires while later ones go on. -/
  pending : List Input
  deriving DecidableEq, Repr

/-- The state right after reset (10_state.md R35, 70_reset_and_hazards.md R210), with nothing presented, at the standard
configuration. The levels of
`ev_ready` and `tx_ready` are DESIGN CHOICE (log entry 8). -/
def State.reset : State :=
  { cfg := Config.standard, res := [], acc := 0x00, scanEn := false, evReady := true, txReady := true, rxBuf := [], dcBuf := [],
    frame := none, fpBuf := [], evOffer := [], txOffer := [], clsOut := [], evOut := [], txOut := [],
    sumOut := [], pending := [] }

end Sys2Proof.Machine
end

