-- ==== Sys2Proof/Machine/Ops.lean ====
section
/-! DEFINITION. The named operations over the state: registers, residue, ports, the scan unit, raising a ParseError. -/

namespace Sys2Proof.Machine

/-- `RES, RES_LEN <- r` (10_state.md R21; a `MemWrite` of 00_scope.md R12). -/
def State.setRes (r : List Byte) (s : State) : State := { s with res := r }

/-- `ACC <- a` (10_state.md R23). -/
def State.setAcc (a : Byte) (s : State) : State := { s with acc := a }

/-- `emit KIND(fields)`: one event after those already produced (00_scope.md R12, 60_exceptions.md R188). -/
def State.emit (e : Event) (s : State) : State := { s with evOffer := s.evOffer ++ [e] }

/-- `cls_code <- c`: one pulse on the class port (10_state.md R28). -/
def State.showClass (c : ClassCode) (s : State) : State := { s with clsOut := s.clsOut ++ [c] }

/-- The bytes of one frame as the TX stream carries them: `tx_last` with the last one (10_state.md R30). -/
def txBytes : List Byte → List TxByte
  | [] => []
  | [x] => [{ data := x, last := true }]
  | x :: y :: r => { data := x, last := false } :: txBytes (y :: r)

/-- The bytes of a frame put on the TX stream, in order (40_checksum_generator.md R95, R96). -/
def State.sendFrame (f : List Byte) (s : State) : State := { s with txOffer := s.txOffer ++ txBytes f }

/-- `ck_sum` as the environment reads it: the value is returned and nothing of the block is written
(40_checksum_generator.md R94). -/
def State.returnSum (s : State) : State := { s with sumOut := s.sumOut ++ [s.acc] }

/-- Raising a ParseError: one `ERROR` event with the cause, and nothing else of the block changes
(60_exceptions.md R192; skipping the rest of the chunk is `ABORT`, in `unitStep`). There is no return operation
(R194). -/
def State.raiseParseError (c : Cause) (s : State) : State := s.emit (.error c)

/-- The checks of a scan unit in the order pair, check bit, angle, and its sample (42_scan_unpacker.md R141,
60_exceptions.md R190). -/
def unitCheck (s ns : Bool) (q : BitVec 6) (c : Bool) (a : BitVec 15) (d : BitVec 16) :
    Except Cause Sample :=
  if !pairOk s ns then .error .startPair
  else if !checkOk c then .error .checkBit
  else if !angleOk a then .error .angleRange
  else .ok { start := s, quality := q, angleQ6 := a, distQ2 := d }

/-- `UNIT(u)` on the unit word (42_scan_unpacker.md R141). -/
def unitResult (w : UnitWord) : Except Cause Sample :=
  unitCheck (flagS w) (flagNS w) (fieldQ w) (flagC w) (fieldA w) (fieldD w)

/-- What becomes of the result of one unit: a `DATA` event, or a ParseError (42_scan_unpacker.md R147). -/
def State.deliver (r : Except Cause Sample) (s : State) : State :=
  match r with
  | .ok x => s.emit (.data x)
  | .error c => s.raiseParseError c

/-- The transient registers after a unit: `POS` advances by 5 after a unit that passes; a unit that fails sets `ABORT` and
leaves `POS` (10_state.md R24, R25). -/
def Cursor.advance (w : UnitWord) (r : Except Cause Sample) (c : Cursor) : Cursor :=
  match r with
  | .ok _ => { pos := c.pos + Config.unitBytes, abort := c.abort, unit := w }
  | .error _ => { pos := c.pos, abort := true, unit := w }

/-- One turn of DECODE's loop on the combined buffer: nothing once `ABORT` is set, else the unit at `POS`
(42_scan_unpacker.md R147, R150). -/
def unitStep (buf : List Byte) (cs : Cursor × State) : Cursor × State :=
  if cs.1.abort then cs
  else
    let w := unitWord (slice buf cs.1.pos Config.unitBytes)
    (cs.1.advance w (unitResult w), cs.2.deliver (unitResult w))

/-- `k` turns of DECODE's loop. -/
def unitLoop (buf : List Byte) : Nat → Cursor × State → Cursor × State
  | 0, cs => cs
  | k + 1, cs => unitLoop buf k (unitStep buf cs)

/-- `m = L div 5`: the complete units of the combined buffer (42_scan_unpacker.md R147). -/
def unitCount (buf : List Byte) : Nat := buf.length / Config.unitBytes

/-- The trailing bytes of the combined buffer: `buf[5·m .. 5·m + t − 1]` (42_scan_unpacker.md R148). -/
def trailing (buf : List Byte) : List Byte := buf.drop (Config.unitBytes * unitCount buf)

/-- The effect of `DECODE(c)`: the residue commit, always, then the units (42_scan_unpacker.md R147, R148). -/
def State.runChunk (c : List Byte) (s : State) : State :=
  let buf := s.res ++ c
  (unitLoop buf (unitCount buf) (Cursor.cleared, s.setRes (trailing buf))).2

/-- The effect of `RST`: registers and transient registers at their reset values; transfers under way abandoned. What
the environment drives, has been given and will present is not the block's, and the configuration is fixed
(43_host_control.md R171). -/
def State.resetBlock (s : State) : State :=
  { s with
    res := State.reset.res, acc := State.reset.acc, rxBuf := State.reset.rxBuf, dcBuf := State.reset.dcBuf,
    frame := State.reset.frame, fpBuf := State.reset.fpBuf, evOffer := State.reset.evOffer,
    txOffer := State.reset.txOffer }

/-- The level on `scan_en` changes: no register of the block is written (43_host_control.md R172). -/
def State.driveScanEn (level : Bool) (s : State) : State := { s with scanEn := level }

/-- The transfer of the event on offer, if there is one (10_state.md R29). -/
def State.transferEvent (s : State) : State :=
  { s with evOffer := s.evOffer.tail, evOut := s.evOut ++ s.evOffer.take 1 }

/-- The transfer of the TX byte on offer, if there is one (10_state.md R30). -/
def State.transferTx (s : State) : State :=
  { s with txOffer := s.txOffer.tail, txOut := s.txOut ++ s.txOffer.take 1 }

/-- `BUF` after one more byte: the count saturates at 257 (10_state.md R32). -/
def State.rxPush (x : Byte) (s : State) : List Byte :=
  if s.rxBuf.length ≤ Config.rxMax then s.rxBuf ++ [x] else s.rxBuf

end Sys2Proof.Machine
end

