-- ==== Sys2Proof/Machine/Checksum.lean ====
section
/-! DEFINITION. The checksum generator family (40_checksum_generator.md). -/

namespace Sys2Proof.Machine

/-- `CKCLR` (R92): `ACC <- 0x00`. -/
def execCkclr (s : State) : Host.Outcome State Fault Refusal := .next (s.setAcc Config.ckInit)

/-- `CKBYTE x` (R93): `ACC <- ACC xor x`. -/
def execCkbyte (x : Byte) (s : State) : Host.Outcome State Fault Refusal := .next (s.setAcc (ckFn s.acc x))

/-- `CKREAD` (R94): returns `ACC`. -/
def execCkread (s : State) : Host.Outcome State Fault Refusal := .next s.returnSum

/-- `FRAME2 op` (R95). -/
def execFrame2 (op : Byte) (s : State) : Host.Outcome State Fault Refusal := .next (s.sendFrame (frame2Bytes op))

/-- `FRAMEP op, p` (R96): `ACC` is not touched. -/
def execFramep (op : Byte) (payload : List Byte) (s : State) : Host.Outcome State Fault Refusal :=
  .next (s.sendFrame (framepBytes op payload))

end Sys2Proof.Machine
end

