-- ==== Sys2Proof/Decode.lean ====
section
/-! DEFINITION. From what the ports carry to operations, and back (30_encoding.md). Inbound buffers and scan units decode
to an operation whatever their bytes are; frame bytes and units of a wrong length are rejected by name. -/

namespace Sys2Proof

open Machine

/-- The five results of the classifier (41_response_classifier.md R110). -/
inductive BufferClass where
  | health | info | scanStartAck | bootAnnouncement | unrecognized
  deriving DecidableEq, Repr

/-- A pin operation: it has no byte encoding (30_encoding.md R60). -/
inductive Pin where
  /-- `ck_clr` = 1. -/
  | ckClr
  /-- `ck_valid` = 1 with `ck_data`. -/
  | ckData (x : Byte)
  /-- `ck_sum` is looked at. -/
  | ckSum
  /-- `rst` = 1. -/
  | rst
  /-- the level on `scan_en`. -/
  | scanEn (level : Bool)
  /-- `res_clr` = 1. -/
  | resClr
  deriving DecidableEq, Repr

/-- An encoded object (30_encoding.md R60). -/
inductive Encoded where
  /-- A whole run on the RX port, with `scan_en` at its last byte (10_state.md R27): the transaction `RX`. -/
  | rxPort (b : List Byte) (scanEn : Bool)
  /-- An inbound buffer as the classifier and the dispatch see it (30_encoding.md R62 to R67). -/
  | buffer (b : List Byte) (scanEn : Bool)
  /-- The bytes of one scan unit (30_encoding.md R69). -/
  | unit (u : List Byte)
  /-- A whole run on the direct port (10_state.md R31). -/
  | chunk (c : List Byte)
  /-- The bytes of a request frame (30_encoding.md R72). -/
  | frame (f : List Byte)
  /-- A pin operation. -/
  | pin (p : Pin)
  deriving DecidableEq, Repr

/-- Why an encoded object is no operation. Rejecting is safe: the machine itself never presents such an object. -/
inductive Reject where
  /-- A scan unit has five bytes (30_encoding.md R69). -/
  | unitLength
  /-- A frame begins with 0xA5 and has an opcode (30_encoding.md R72). -/
  | frameStart
  /-- A frame longer than two bytes has 4 + `f[2]` bytes (30_encoding.md R76). -/
  | frameLength
  /-- The last byte of a frame with payload is the checksum of the others (40_checksum_generator.md R97). -/
  | frameChecksum
  deriving DecidableEq, Repr

/-- `CLASSIFY(b)` (41_response_classifier.md R110), under the configured `BOOT_PREFIX`. -/
def classify (cfg : Config.Settings) (b : List Byte) : BufferClass :=
  if b.length = Config.healthLen ∧ b.take 7 = Config.preHealth then .health
  else if b.length = Config.infoLen ∧ b.take 7 = Config.preInfo then .info
  else if b.length = Config.ackLen ∧ b.take 7 = Config.seqAck then .scanStartAck
  else if b.length = Config.bootLen ∧ b.take cfg.bootPrefix.length = cfg.bootPrefix then
    .bootAnnouncement
  else .unrecognized

/-- The operation of the formats `HEALTH` to `UNREC` that a buffer is (41_response_classifier.md R111 to R118). -/
def decodeBuffer (cfg : Config.Settings) (b : List Byte) (scanEn : Bool) : Instr :=
  match classify cfg b with
  | .health => .health (healthStatus b) (healthErrorCode b)
  | .info =>
    .info (infoModel b) (infoFirmwareMinor b) (infoFirmwareMajor b) (infoHardware b) (infoSerial b)
  | .scanStartAck => .scanack
  | .bootAnnouncement => .boot (bootTail cfg b)
  | .unrecognized =>
    if b.length = Config.chunkBytes then
      if scanEn then .scanchunk b else .scandrop b
    else .unrec b

/-- The row of the format `UNIT` that a unit word is (30_encoding.md R74, checks in the order of R190). -/
def decodeUnit (w : UnitWord) : Instr :=
  if pairOk (flagS w) (flagNS w) then
    if checkOk (flagC w) then
      if angleOk (fieldA w) then
        if flagS w then .unitStart (fieldQ w) (fieldA w) (fieldD w)
        else .unitCont (fieldQ w) (fieldA w) (fieldD w)
      else .unitErr3 (flagS w) (fieldQ w) (fieldA w) (fieldD w)
    else .unitErr2 (flagS w) (fieldQ w) (fieldA w) (fieldD w)
  else if flagS w then .unitErr1Ones (fieldQ w) (flagC w) (fieldA w) (fieldD w)
  else .unitErr1Zeros (fieldQ w) (flagC w) (fieldA w) (fieldD w)

/-- The frame operation that gives these bytes (30_encoding.md R72, R76). The block generates frames and never reads
one: this direction serves the round trip only (log entry 24). -/
def decodeFrame : List Byte → Except Reject Instr
  | [] => .error .frameStart
  | [_] => .error .frameStart
  | [f0, op] => if f0 = Config.startFlag then .ok (.frame2 op) else .error .frameStart
  | f0 :: op :: len :: rest =>
    if f0 = Config.startFlag then
      if rest.length = len.toNat + 1 then
        if ck (f0 :: op :: len :: rest) = Config.ckInit then .ok (.framep op (rest.take len.toNat))
        else .error .frameChecksum
      else .error .frameLength
    else .error .frameStart

/-- The operation a pin carries (30_encoding.md R60). -/
def decodePin : Pin → Instr
  | .ckClr => .ckclr
  | .ckData x => .ckbyte x
  | .ckSum => .ckread
  | .rst => .rst
  | .scanEn level => .scanen level
  | .resClr => .resclr

/-- The decoder of a block with the configuration `cfg`, total on any encoded object. -/
def decode (cfg : Config.Settings) : Encoded → Except Reject Instr
  | .rxPort b scanEn => .ok (.rx b scanEn)
  | .buffer b scanEn => .ok (decodeBuffer cfg b scanEn)
  | .unit u => if u.length = Config.unitBytes then .ok (decodeUnit (unitWord u)) else .error .unitLength
  | .chunk c => .ok (.decode c)
  | .frame f => decodeFrame f
  | .pin p => .ok (decodePin p)

/-- `HEALTHBUF(status, error_code)` (30_encoding.md R62, R78). -/
def healthBuf (status : Byte) (errorCode : BitVec 16) : List Byte :=
  Config.preHealth ++ status :: leBytes 2 errorCode.toNat

/-- `INFOBUF(model, fmin, fmaj, hw, serial)` (30_encoding.md R63, R78). -/
def infoBuf (model fmin fmaj hw : Byte) (serial : List Byte) : List Byte :=
  Config.preInfo ++ [model, fmin, fmaj, hw] ++ serial

/-- `BOOTBUF(tail)` (30_encoding.md R65, R78). -/
def bootBuf (cfg : Config.Settings) (tail : List Byte) : List Byte := cfg.bootPrefix ++ tail

/-- The encoder: the object of 30_encoding.md that stands for an operation. A reply format is encoded with
`scan_en` = 0, on which its classification does not depend (R121). -/
def encode (cfg : Config.Settings) : Instr → Encoded
  | .rx b scanEn => .rxPort b scanEn
  | .health status errorCode => .buffer (healthBuf status errorCode) false
  | .info model fmin fmaj hw serial => .buffer (infoBuf model fmin fmaj hw serial) false
  | .scanack => .buffer Config.seqAck false
  | .boot tail => .buffer (bootBuf cfg tail) false
  | .scanchunk b => .buffer b true
  | .scandrop b => .buffer b false
  | .unrec b => .buffer b false
  | .unitStart q a d => .unit (unitBytes (packUnit true false q true a d))
  | .unitCont q a d => .unit (unitBytes (packUnit false true q true a d))
  | .unitErr1Zeros q c a d => .unit (unitBytes (packUnit false false q c a d))
  | .unitErr1Ones q c a d => .unit (unitBytes (packUnit true true q c a d))
  | .unitErr2 s q a d => .unit (unitBytes (packUnit s (!s) q false a d))
  | .unitErr3 s q a d => .unit (unitBytes (packUnit s (!s) q true a d))
  | .decode c => .chunk c
  | .frame2 op => .frame (frame2Bytes op)
  | .framep op payload => .frame (framepBytes op payload)
  | .ckclr => .pin .ckClr
  | .ckbyte x => .pin (.ckData x)
  | .ckread => .pin .ckSum
  | .rst => .pin .rst
  | .scanen level => .pin (.scanEn level)
  | .resclr => .pin .resClr

/-- The bytes of an encoded object (none for a pin operation). -/
def Encoded.bytes : Encoded → List Byte
  | .rxPort b _ => b
  | .buffer b _ => b
  | .unit u => u
  | .chunk c => c
  | .frame f => f
  | .pin _ => []

/-- The bytes extended by zero bytes to the given length (the operand bytes of a row that the table gives no bits). -/
def padTo (n : Nat) (b : List Byte) : List Byte := b ++ List.replicate (n - b.length) 0

/-- The length of the format that a row of the table with a `match` string belongs to (30_encoding.md R62 to R65). -/
def tableLength (b : List Byte) : Nat :=
  if b.take 7 = Config.preHealth then Config.healthLen
  else if b.take 7 = Config.preInfo then Config.infoLen
  else if b.take Config.bootPrefixDefault.length = Config.bootPrefixDefault then Config.bootLen
  else b.length

/-- The encoded object that `nbits` bits of a row stand for: 40 bits are a scan unit; bytes that are a whole request
frame are that frame; any other bytes are an inbound buffer, extended by zeros to its format's length, taken with
`scan_en` = 0, its level at reset. Rows without bits have none (log entry 23). -/
def tableObject (nbits w : Nat) : Option Encoded :=
  let b := leBytes (nbits / 8) w
  if b.length = 0 then none
  else if b.length = Config.unitBytes then some (.unit b)
  else
    match decodeFrame b with
    | .ok _ => some (.frame b)
    | .error _ => some (.buffer (padTo (tableLength b) b) false)

/-- The operation the decoder, at the standard configuration, reads from `nbits` bits `w`, bit 0 the least significant bit of the first byte. -/
def decodeTableWord (nbits w : Nat) : Option Instr :=
  match tableObject nbits w with
  | none => none
  | some e => (decode Config.standard e).toOption

end Sys2Proof
end

