-- ==== Sys2Proof/Machine/Unpacker.lean ====
section
/-! DEFINITION. The scan unpacker family (42_scan_unpacker.md). A `UNIT` row as an operation has the effect the unit has
inside a DECODE: its result is delivered on the event port (log entry 4). -/

namespace Sys2Proof.Machine

/-- `UNIT`, start = 1 (R141). -/
def execUnitStart (q : BitVec 6) (a : BitVec 15) (d : BitVec 16) (s : State) :
    Host.Outcome State Fault Refusal :=
  .next (s.deliver (unitCheck true false q true a d))

/-- `UNIT`, start = 0 (R141). -/
def execUnitCont (q : BitVec 6) (a : BitVec 15) (d : BitVec 16) (s : State) :
    Host.Outcome State Fault Refusal :=
  .next (s.deliver (unitCheck false true q true a d))

/-- `UNIT.ERR1`, both flags 0 (R143). -/
def execUnitErr1Zeros (q : BitVec 6) (c : Bool) (a : BitVec 15) (d : BitVec 16) (s : State) :
    Host.Outcome State Fault Refusal :=
  .next (s.deliver (unitCheck false false q c a d))

/-- `UNIT.ERR1`, both flags 1 (R143). -/
def execUnitErr1Ones (q : BitVec 6) (c : Bool) (a : BitVec 15) (d : BitVec 16) (s : State) :
    Host.Outcome State Fault Refusal :=
  .next (s.deliver (unitCheck true true q c a d))

/-- `UNIT.ERR2` (R144). -/
def execUnitErr2 (f : Bool) (q : BitVec 6) (a : BitVec 15) (d : BitVec 16) (s : State) :
    Host.Outcome State Fault Refusal :=
  .next (s.deliver (unitCheck f (!f) q false a d))

/-- `UNIT.ERR3` (R145). -/
def execUnitErr3 (f : Bool) (q : BitVec 6) (a : BitVec 15) (d : BitVec 16) (s : State) :
    Host.Outcome State Fault Refusal :=
  .next (s.deliver (unitCheck f (!f) q true a d))

/-- `DECODE(c)` (R147 to R150). -/
def execDecode (c : List Byte) (s : State) : Host.Outcome State Fault Refusal := .next (s.runChunk c)

end Sys2Proof.Machine
end

