-- ==== Sys2Proof/Machine/Classifier.lean ====
section
/-! DEFINITION. The response classifier family (41_response_classifier.md). -/

namespace Sys2Proof.Machine

/-- `HEALTH` (R112): class 1 and one `HEALTH` event. -/
def execHealth (status : Byte) (errorCode : BitVec 16) (s : State) : Host.Outcome State Fault Refusal :=
  .next ((s.showClass .health).emit (.health status errorCode))

/-- `INFO` (R113): class 2 and one `INFO` event. -/
def execInfo (model fmin fmaj hw : Byte) (serial : List Byte) (s : State) :
    Host.Outcome State Fault Refusal :=
  .next ((s.showClass .info).emit (.info model fmin fmaj hw serial))

/-- `SCANACK` (R114): class 3 and one `SCAN_START` event; the residue and `scan_en` stay. -/
def execScanack (s : State) : Host.Outcome State Fault Refusal :=
  .next ((s.showClass .scanack).emit .scanStart)

/-- `BOOT` (R115): class 4 and one `BOOT` event; the tail is ignored. -/
def execBoot (s : State) : Host.Outcome State Fault Refusal :=
  .next ((s.showClass .boot).emit .boot)

/-- `SCANCHUNK` (R116): class 5, then exactly `DECODE(b)`. -/
def execScanchunk (b : List Byte) (s : State) : Host.Outcome State Fault Refusal :=
  execDecode b (s.showClass .scanchunk)

/-- `SCANDROP` (R117): class 6 and nothing else. -/
def execScandrop (s : State) : Host.Outcome State Fault Refusal := .next (s.showClass .scandrop)

/-- `UNREC` (R118): class 0 and nothing else. -/
def execUnrec (s : State) : Host.Outcome State Fault Refusal := .next (s.showClass .unrec)

/-- `RX(b, scan_en)` (R111): exactly one of the operations above, each showing its class code. -/
def execRx (b : List Byte) (scanEn : Bool) (s : State) : Host.Outcome State Fault Refusal :=
  match classify s.cfg b with
  | .health => execHealth (healthStatus b) (healthErrorCode b) s
  | .info =>
    execInfo (infoModel b) (infoFirmwareMinor b) (infoFirmwareMajor b) (infoHardware b) (infoSerial b) s
  | .scanStartAck => execScanack s
  | .bootAnnouncement => execBoot s
  | .unrecognized =>
    if b.length = Config.chunkBytes then
      if scanEn then execScanchunk b s else execScandrop s
    else execUnrec s

end Sys2Proof.Machine
end

