-- ==== Sys2Proof/Machine/HostControl.lean ====
section
/-! DEFINITION. The host-control family (43_host_control.md). -/

namespace Sys2Proof.Machine

/-- `RST` (R171). -/
def execRst (s : State) : Host.Outcome State Fault Refusal := .next s.resetBlock

/-- `SCANEN` (R172): the level is driven; nothing of the block changes. -/
def execScanen (level : Bool) (s : State) : Host.Outcome State Fault Refusal := .next (s.driveScanEn level)

/-- `RESCLR` (R173): `RES_LEN <- 0`. Sampling it only between transactions is the port's (`State.accept`). -/
def execResclr (s : State) : Host.Outcome State Fault Refusal := .next (s.setRes [])

end Sys2Proof.Machine
end

