-- ==== Sys2Proof/Machine/Dispatch.lean ====
section
/-! DEFINITION. The dispatch: one meaning per operation. -/

namespace Sys2Proof.Machine

def exec (i : Instr) (s : State) : Host.Outcome State Fault Refusal :=
  match i with
  | .rx b scanEn => Sys2Proof.Machine.execRx b scanEn s
  | .health status errorCode => Sys2Proof.Machine.execHealth status errorCode s
  | .info model fmin fmaj hw serial => Sys2Proof.Machine.execInfo model fmin fmaj hw serial s
  | .scanack => Sys2Proof.Machine.execScanack s
  | .boot _ => Sys2Proof.Machine.execBoot s
  | .scanchunk b => Sys2Proof.Machine.execScanchunk b s
  | .scandrop _ => Sys2Proof.Machine.execScandrop s
  | .unrec _ => Sys2Proof.Machine.execUnrec s
  | .unitStart q a d => Sys2Proof.Machine.execUnitStart q a d s
  | .unitCont q a d => Sys2Proof.Machine.execUnitCont q a d s
  | .unitErr1Zeros q c a d => Sys2Proof.Machine.execUnitErr1Zeros q c a d s
  | .unitErr1Ones q c a d => Sys2Proof.Machine.execUnitErr1Ones q c a d s
  | .unitErr2 f q a d => Sys2Proof.Machine.execUnitErr2 f q a d s
  | .unitErr3 f q a d => Sys2Proof.Machine.execUnitErr3 f q a d s
  | .decode c => Sys2Proof.Machine.execDecode c s
  | .frame2 op => Sys2Proof.Machine.execFrame2 op s
  | .framep op payload => Sys2Proof.Machine.execFramep op payload s
  | .ckclr => Sys2Proof.Machine.execCkclr s
  | .ckbyte x => Sys2Proof.Machine.execCkbyte x s
  | .ckread => Sys2Proof.Machine.execCkread s
  | .rst => Sys2Proof.Machine.execRst s
  | .scanen level => Sys2Proof.Machine.execScanen level s
  | .resclr => Sys2Proof.Machine.execResclr s

end Sys2Proof.Machine
end

