-- ==== Sys2Proof/WellFormed.lean ====
section
/-! DEFINITION. The checks an operation's operands must meet to be one of the formats of 30_encoding.md. -/

namespace Sys2Proof

/-- The operands are those of a row of the table, under the configuration `cfg`. An operation that the decoder answers always meets it. -/
def wellFormed (cfg : Config.Settings) : Instr → Bool
  | .rx _ _ => true
  | .health _ _ => true
  | .info _ _ _ _ serial => decide (serial.length = Config.serialLen)
  | .scanack => true
  | .boot tail => decide (tail.length = Config.bootLen - cfg.bootPrefix.length)
  | .scanchunk b => decide (b.length = Config.chunkBytes)
  | .scandrop b => decide (b.length = Config.chunkBytes)
  | .unrec b => decide (classify cfg b = .unrecognized ∧ b.length ≠ Config.chunkBytes)
  | .unitStart _ a _ => Machine.angleOk a
  | .unitCont _ a _ => Machine.angleOk a
  | .unitErr1Zeros _ _ _ _ => true
  | .unitErr1Ones _ _ _ _ => true
  | .unitErr2 _ _ _ _ => true
  | .unitErr3 _ _ a _ => !Machine.angleOk a
  | .decode _ => true
  | .frame2 _ => true
  | .framep _ payload => decide (payload.length ≤ 255)
  | .ckclr => true
  | .ckbyte _ => true
  | .ckread => true
  | .rst => true
  | .scanen _ => true
  | .resclr => true

/-- An operation of the table (30_encoding.md R60). -/
abbrev WellFormed (cfg : Config.Settings) (i : Instr) : Prop := wellFormed cfg i = true

end Sys2Proof
end

