-- ==== Sys2Proof/Machine/Ports.lean ====
section
/-! DEFINITION. What the ports carry (10_state.md R27 to R31): the status the block shows, the operation it turns to next,
and how an operation is presented to it. -/

namespace Sys2Proof.Machine

/-- `RES_LEN`, 3 bits (10_state.md R22). -/
def State.resLen (s : State) : BitVec 3 := BitVec.ofNat 3 s.res.length
/-- `LEN`, 9 bits, saturating at 257 (10_state.md R32). -/
def State.rxLen (s : State) : BitVec 9 := BitVec.ofNat 9 s.rxBuf.length
/-- `ck_sum`, always equal to `ACC` (10_state.md R30). -/
def State.ckSum (s : State) : Byte := s.acc
/-- `ev_valid` (10_state.md R29). -/
def State.evValid (s : State) : Bool := !s.evOffer.isEmpty
/-- `tx_valid` (10_state.md R30). -/
def State.txValid (s : State) : Bool := !s.txOffer.isEmpty
/-- `rx_ready` and `dc_ready`: the block takes bytes of scan or reply data when no event waits (10_state.md R29: "the block
waits"). Log entry 5; a frame request does not hold it back (20_memory.md R53). -/
def State.rxReady (s : State) : Bool := !s.evValid
/-- The frame interface takes a request when no frame is in progress: none lacks payload bytes and none is on the TX
stream (10_state.md R30). Log entry 11. -/
def State.frReady (s : State) : Bool := s.frame.isNone && !s.txValid
/-- No transaction is in progress: no event waits to leave, and no frame request lacks payload bytes or has bytes on the TX
stream (00_scope.md R15 counts `FRAME2` and `FRAMEP` as transactions; 40_checksum_generator.md R96). A buffer of which only
some bytes are received is not yet one: on the RX port log entry 21 (DEDUCED), on the direct port log entry 28 (DESIGN
CHOICE). -/
def State.betweenTransactions (s : State) : Bool := !s.evValid && s.frReady
/-- `fp_ready`: the frame in progress lacks payload bytes (10_state.md R30; 70_reset_and_hazards.md R223: excess bytes are
the start of the next request's payload). -/
def State.fpReady (s : State) : Bool :=
  match s.frame with
  | some r => decide (s.fpBuf.length < r.len.toNat)
  | none => false

/-- The transfer of an event is possible: `ev_valid` and `ev_ready` (10_state.md R29). -/
def State.evCanLeave (s : State) : Bool := s.evReady && s.evValid
/-- The transfer of a TX byte is possible: `tx_valid` and `tx_ready` (10_state.md R30). -/
def State.txCanLeave (s : State) : Bool := s.txReady && s.txValid

/-- What the block turns to: an operation run in a state, or a change that is no operation. -/
inductive Move where
  /-- A transfer on a port, a byte stored, or nothing at all. -/
  | quiet (s : State)
  /-- An operation, run in the state given. -/
  | run (i : Instr) (s : State)
  deriving DecidableEq, Repr

/-- Does the block take the input now? `rst` always; a byte or a request when its port is ready; a pin always. -/
def State.takes (s : State) (x : Input) : Bool :=
  x.rst ||
    match x.act with
    | .rxByte _ _ => s.rxReady
    | .dcByte _ _ => s.rxReady
    | .dcEmpty => s.rxReady
    | .frameReq _ _ _ => s.frReady
    | .fpByte _ => s.fpReady
    | _ => true

/-- The first input the block takes now, and the others in order: an input whose port is not ready waits on its wires, and
the other ports go on (log entry 7). All inputs of one port wait or none does, so a port keeps its order. -/
def State.nextInput (s : State) : List Input → Option (Input × List Input)
  | [] => none
  | x :: rest =>
    if s.takes x then some (x, rest)
    else (s.nextInput rest).map fun p => (p.1, x :: p.2)

/-- The levels an input drives, which stay driven whatever else happens at that moment. -/
def State.driveLevels (a : Activity) (s : State) : State :=
  match a with
  | .scanEn level => s.driveScanEn level
  | .evReady level => { s with evReady := level }
  | .txReady level => { s with txReady := level }
  | _ => s

/-- A byte of the payload stream for the frame in progress: the last one makes it one `FRAMEP` (40_checksum_generator.md
R96). -/
def State.takePayload (d : Byte) (s : State) : Move :=
  match s.frame with
  | none => .quiet s
  | some r =>
    if s.fpBuf.length + 1 < r.len.toNat then .quiet { s with fpBuf := s.fpBuf ++ [d] }
    else .run (.framep r.op (s.fpBuf ++ [d])) { s with frame := none, fpBuf := [] }

/-- What the block does with an input it takes, in the state without that input. `res_clr` is sampled only between
transactions and ignored during one (43_host_control.md R173; 93_implementation_defined.md U14). That it acts while a buffer
is only partly received is the model's: on the RX port DEDUCED, log entry 21; on the direct port DESIGN CHOICE, log entry
28. -/
def State.accept (x : Input) (s : State) : Move :=
  if x.rst then .run .rst (s.driveLevels x.act)
  else
    match x.act with
    | .idle => .quiet s
    | .rxByte d last =>
      if last then .run (.rx (s.rxPush d) s.scanEn) { s with rxBuf := [] }
      else .quiet { s with rxBuf := s.rxPush d }
    | .dcByte d last =>
      if last then .run (.decode (s.dcBuf ++ [d])) { s with dcBuf := [] }
      else .quiet { s with dcBuf := s.dcBuf ++ [d] }
    | .dcEmpty => .run (.decode []) s
    | .frameReq op false _ => .run (.frame2 op) s
    | .frameReq op true len =>
      if len = 0 then .run (.framep op []) { s with fpBuf := [] }
      else .quiet { s with frame := some { op := op, len := len }, fpBuf := [] }
    | .fpByte d => s.takePayload d
    | .ckPins false none => .quiet s
    | .ckPins false (some d) => .run (.ckbyte d) s
    | .ckPins true none => .run .ckclr s
    | .ckPins true (some d) => .run (.ckbyte d) (s.setAcc Config.ckInit)
    | .ckSum => .run .ckread s
    | .resClr => if s.betweenTransactions then .run .resclr s else .quiet s
    | .scanEn level => .run (.scanen level) s
    | .evReady level => .quiet (s.driveLevels (.evReady level))
    | .evTake => .quiet s.transferEvent
    | .txReady level => .quiet (s.driveLevels (.txReady level))
    | .txTake => .quiet s.transferTx

/-- `rst` is asserted: it is what the environment presents now. -/
def State.rstNow (s : State) : Bool :=
  match s.pending with
  | x :: _ => x.rst
  | [] => false

/-- The next input that the block takes. With none it is idle, or waits, and keeps its state (60_exceptions.md R201). -/
def State.takeInput (s : State) : Move :=
  match s.nextInput s.pending with
  | some (x, rest) => { s with pending := rest }.accept x
  | none => .quiet s

/-- What the block turns to next: `rst`, which takes precedence over every other pin (43_host_control.md R171), then an
event that can be transferred, then a TX byte that can be, then the next input that it takes. The order among the ports
is DESIGN CHOICE: log entry 6. -/
def State.move (s : State) : Move :=
  if s.rstNow then s.takeInput
  else if s.evCanLeave then .quiet s.transferEvent
  else if s.txCanLeave then .quiet s.transferTx
  else s.takeInput

/-- A run of bytes on a port: all but the last already received, the last one still to come (10_state.md R27). The two
parts are given to the continuation. A run of no bytes cannot be expressed. -/
def splitLast : List Byte → Option (List Byte × Byte)
  | [] => none
  | [x] => some ([], x)
  | x :: y :: r => (splitLast (y :: r)).map fun p => (x :: p.1, p.2)

/-- The state with nothing on offer and no frame in progress, so that the next step takes the input `x`. -/
def State.withNext (x : Activity) (s : State) : State :=
  { s with evOffer := [], txOffer := [], frame := none, pending := { rst := false, act := x } :: s.pending }

/-- The state in which the next step takes the last byte of the inbound buffer `b` with `scan_en` at the given level. -/
def State.presentBuffer (b : List Byte) (scanEn : Bool) (s : State) : State :=
  match splitLast b with
  | none => s
  | some (front, x) => { s.withNext (.rxByte x true) with rxBuf := front.take (Config.rxMax + 1), scanEn := scanEn }

/-- The state in which the next step takes the last byte of the chunk `c` on the direct port (`dc_empty` for none). -/
def State.presentChunk (c : List Byte) (s : State) : State :=
  match splitLast c with
  | none => s.withNext .dcEmpty
  | some (front, x) => { s.withNext (.dcByte x true) with dcBuf := front }

/-- The state in which the next step takes the last payload byte of the frame (the request itself, if it has none). -/
def State.presentFrame (op : Byte) (payload : List Byte) (s : State) : State :=
  match splitLast payload with
  | none => s.withNext (.frameReq op true 0)
  | some (front, x) =>
    { s.withNext (.fpByte x) with
      frame := some { op := op, len := BitVec.ofNat 8 payload.length }, fpBuf := front }

/-- The activity that carries a pin operation. -/
def pinActivity : Pin → Activity
  | .ckClr => .ckPins true none
  | .ckData x => .ckPins false (some x)
  | .ckSum => .ckSum
  | .rst => .idle
  | .scanEn level => .scanEn level
  | .resClr => .resClr

/-- The state in which the next step takes the encoded object `e`: a unit is presented as a chunk of its own behind an
empty residue. Log entry 2. -/
def State.presentObject (e : Encoded) (s : State) : State :=
  match e with
  | .rxPort b scanEn => s.presentBuffer b scanEn
  | .buffer b scanEn => s.presentBuffer b scanEn
  | .unit u => { s.presentChunk u with res := [] }
  | .chunk c => s.presentChunk c
  | .frame f =>
    match decodeFrame f with
    | .ok (.framep op p) => s.presentFrame op p
    | .ok (.frame2 op) => s.withNext (.frameReq op false 0)
    | _ => s
  | .pin .rst => { s with pending := { rst := true, act := .idle } :: s.pending }
  | .pin p => s.withNext (pinActivity p)

/-- The state in which the next step runs the row of the table whose bits are `w`. -/
def State.presentTableWord (nbits w : Nat) (s : State) : State :=
  match tableObject nbits w with
  | none => s
  | some e => s.presentObject e

end Sys2Proof.Machine
end

