-- ==== Sys2Proof/Machine/Step.lean ====
section
/-! DEFINITION. One step of the block: what its ports turn it to (`State.move`), run by `exec` where it is an operation. -/

namespace Sys2Proof.Machine

/-- One step. -/
def step (s : State) : Host.Outcome State Fault Refusal :=
  match s.move with
  | .quiet t => .next t
  | .run i t => exec i t

/-- `s` with the row of the opcode table whose bits are `w` presented, so that the next step runs it (log entries 2
and 23). -/
def State.withFetchWord (s : State) (nbits w : Nat) : State := s.presentTableWord nbits w

end Sys2Proof.Machine
end

