-- ==== Sys2Proof/Machine/EventPort.lean ====
section
/-! DEFINITION. The codes and the bit layout of the class port and the event port (30_encoding.md R80 to R82,
60_exceptions.md R188), and the readings of an output that the spec gives outside the hardware (00_scope.md R13,
41_response_classifier.md R122, R123). -/

namespace Sys2Proof.Machine

/-- `cls_code` (30_encoding.md R80). -/
def ClassCode.code : ClassCode → BitVec 3
  | .unrec => 0
  | .health => 1
  | .info => 2
  | .scanack => 3
  | .boot => 4
  | .scanchunk => 5
  | .scandrop => 6

/-- The cause code (30_encoding.md R82). -/
def Cause.code : Cause → BitVec 2
  | .startPair => 1
  | .checkBit => 2
  | .angleRange => 3

/-- The source's message for a cause, where it gives one (30_encoding.md R82). -/
def Cause.message : Cause → Option String
  | .startPair => none
  | .checkBit => some "check bit not set"
  | .angleRange => some "angle out of range"

/-- `ev_kind` (30_encoding.md R81). -/
def Event.kind : Event → BitVec 3
  | .health _ _ => 1
  | .info _ _ _ _ _ => 2
  | .scanStart => 3
  | .boot => 4
  | .data _ => 5
  | .error _ => 6

/-- `ev_data` as a number: the payload fields at their places, the other bits 0 (60_exceptions.md R188). -/
def Event.payload : Event → Nat
  | .health status errorCode => status.toNat + 2 ^ 8 * errorCode.toNat
  | .info model fmin fmaj hw serial => leValue ([model, fmin, fmaj, hw] ++ serial)
  | .scanStart => 0
  | .boot => 0
  | .data x => x.start.toNat + 2 * x.quality.toNat + 2 ^ 7 * x.angleQ6.toNat + 2 ^ 22 * x.distQ2.toNat
  | .error c => c.code.toNat

/-- `ev_data`, 160 bits (60_exceptions.md R188). -/
def Event.bits (e : Event) : BitVec 160 := BitVec.ofNat 160 e.payload

/-- The class code the last `RX` showed (10_state.md R28). -/
def State.lastClass (s : State) : Option (BitVec 3) := s.clsOut.getLast?.map ClassCode.code

/-- `ev_kind` and `ev_data` while `ev_valid` = 1 (10_state.md R29). -/
def State.evPort (s : State) : Option (BitVec 3 × BitVec 160) :=
  s.evOffer.head?.map fun e => (e.kind, e.bits)

/-- The angle of a sample in degrees, exact (00_scope.md R13). -/
def Sample.angle (x : Sample) : Rat := (x.angleQ6.toNat : Rat) / (Config.angleDiv : Rat)

/-- The distance of a sample in millimetres, exact (00_scope.md R13). -/
def Sample.distance (x : Sample) : Rat := (x.distQ2.toNat : Rat) / (Config.distDiv : Rat)

/-- The name of a Health status. Only Good is the source's; Warning and Error are from general knowledge and no rule
depends on them (41_response_classifier.md R122). UNVERIFIED: log entry 25. -/
def healthStatusName (status : Byte) : Option String :=
  if status = 0 then some "Good" else if status = 1 then some "Warning" else if status = 2 then some "Error"
  else none

/-- One hexadecimal digit, lower case (41_response_classifier.md R123). -/
def hexDigit (n : Nat) : Char := (['0', '1', '2', '3', '4', '5', '6', '7', '8', '9', 'a', 'b', 'c', 'd', 'e', 'f']).getD n '0'

/-- The rendering of the serial number: two digits a byte, high nibble first (41_response_classifier.md R123). -/
def renderSerial : List Byte → List Char
  | [] => []
  | x :: r => hexDigit (x.toNat / 16) :: hexDigit (x.toNat % 16) :: renderSerial r

end Sys2Proof.Machine
end

