-- ==== Sys2Proof/Safety.lean ====
section
/-! DEFINITION. The terms in which claims are stated: the invariant of the block, runs of operations, what a combined
buffer should give, and the streaming realisation of 42_scan_unpacker.md R156. -/

namespace Sys2Proof.Safety

open Machine

/-- An event that the block can produce: a sample within its ranges (42_scan_unpacker.md R142), a serial number of 16
bytes (30_encoding.md R63). -/
def eventOk : Event → Bool
  | .data x => angleOk x.angleQ6
  | .info _ _ _ _ serial => decide (serial.length = Config.serialLen)
  | _ => true

/-- What holds of the block at every transaction boundary: at most four residue bytes (10_state.md R22), a receive count
that does not pass 257 (10_state.md R32), a frame in progress that still lacks a payload byte and no payload byte without
one (70_reset_and_hazards.md R223), a configuration within its bound (00_scope.md R8), and events that can be produced. -/
structure Inv (s : State) : Prop where
  configured : s.cfg.ok = true
  residue : s.res.length ≤ Config.resMax
  received : s.rxBuf.length ≤ Config.rxMax + 1
  framing : ∀ r, s.frame = some r → s.fpBuf.length < r.len.toNat
  unframed : s.frame = none → s.fpBuf = []
  offered : ∀ e ∈ s.evOffer, eventOk e = true
  delivered : ∀ e ∈ s.evOut, eventOk e = true

/-- Operations run one after another (00_scope.md R16: each to completion, in order). -/
def runInstrs : List Instr → State → Host.Outcome State Fault Refusal
  | [], s => .next s
  | i :: is, s =>
    match exec i s with
    | .next t => runInstrs is t
    | .fault r => .fault r
    | .refused r => .refused r

/-- The units of a byte sequence: consecutive 5-byte groups from offset 0; an incomplete last group is none
(20_memory.md R47). -/
def unitsOf : List Byte → List UnitWord
  | a :: b :: c :: d :: e :: r => unitWord [a, b, c, d, e] :: unitsOf r
  | _ => []

/-- The events of a sequence of units: `DATA` up to the first malformed unit, one `ERROR` for that unit, nothing after it
(42_scan_unpacker.md R147, R150). -/
def eventsOf : List UnitWord → List Event
  | [] => []
  | w :: ws =>
    match unitResult w with
    | .ok x => .data x :: eventsOf ws
    | .error c => [.error c]

/-- A well-formed unit: it has a sample (30_encoding.md R74). -/
def unitGood (w : UnitWord) : Bool := (unitResult w).isOk

/-- The streaming realisation of UNP: the bytes of the incomplete unit, `ABORT`, and the events produced
(42_scan_unpacker.md R156). -/
structure Stream where
  hold : List Byte
  abort : Bool
  events : List Event
  deriving DecidableEq, Repr

/-- One chunk byte: append it; with five bytes held apply `UNIT`, emit the result unless `ABORT` is set, set `ABORT` on a
ParseError, and empty the holding register (42_scan_unpacker.md R156). -/
def Stream.byte (t : Stream) (x : Byte) : Stream :=
  let h := t.hold ++ [x]
  if h.length < Config.unitBytes then { t with hold := h }
  else
    match unitResult (unitWord h) with
    | .ok y => { hold := [], abort := t.abort, events := if t.abort then t.events else t.events ++ [.data y] }
    | .error c => { hold := [], abort := true, events := if t.abort then t.events else t.events ++ [.error c] }

/-- One chunk through the streaming realisation, from the bytes held; `ABORT` is clear at its start. -/
def streamChunk (hold c : List Byte) : Stream :=
  c.foldl Stream.byte { hold := hold, abort := false, events := [] }

/-- Steps one after another. -/
def runSteps : Nat → State → Host.Outcome State Fault Refusal
  | 0, s => .next s
  | k + 1, s =>
    match step s with
    | .next t => runSteps k t
    | .fault r => .fault r
    | .refused r => .refused r

/-- Neither an event nor a frame byte can be transferred now (none waits, or its consumer is not ready): the next step turns
to the next input that is taken. -/
structure NoTransfer (s : State) : Prop where
  events : s.evCanLeave = false
  bytes : s.txCanLeave = false

/-- The inputs that carry one buffer on the RX port: `rx_last` with the last byte only (10_state.md R27). -/
def rxRun : List Byte → List Input
  | [] => []
  | [x] => [{ rst := false, act := .rxByte x true }]
  | x :: y :: r => { rst := false, act := .rxByte x false } :: rxRun (y :: r)

/-- The input that carries one activity with `rst` = 0. -/
def plain (a : Activity) : Input := { rst := false, act := a }

/-- The inputs that carry these bytes on the payload stream. -/
def payloadRun (p : List Byte) : List Input := p.map fun x => plain (.fpByte x)

/-- A family of operations: does the checksum generator perform it (40_checksum_generator.md)? -/
def isCkg : Instr → Bool
  | .ckclr => true
  | .ckbyte _ => true
  | .ckread => true
  | .frame2 _ => true
  | .framep _ _ => true
  | _ => false

/-- The operations that write `RES` and `RES_LEN` (10_state.md R20; `SCANCHUNK` and `RX` through `DECODE`). -/
def writesResidue : Instr → Bool
  | .rx _ _ => true
  | .scanchunk _ => true
  | .decode _ => true
  | .resclr => true
  | .rst => true
  | _ => false

/-- The operations that write `ACC` (10_state.md R20). -/
def writesAcc : Instr → Bool
  | .ckclr => true
  | .ckbyte _ => true
  | .rst => true
  | _ => false

end Sys2Proof.Safety
end

