-- ==== Sys2Proof/Certificates/Slice0/Obligations.lean ====
section
/-! DEFINITION. The statements for the provers, family by family. D<n> in a docstring is a decision of
spec/92_eei_decisions.md that a clause rests on. -/

open Sys2Proof Sys2Proof.Machine Sys2Proof.Safety

/-! ### Checksum generator -/

/-- 40 §2 (`CKBYTE`; that the fold is xor is decision D14): `ACC <- ACC xor x` and nothing else, from the pins too; 0x00
changes nothing, `ACC` itself gives 0x00, twice the same byte cancels. -/
def Obligations.CkbyteFoldsOneByte : Prop :=
  ∀ (x : Byte) (s : State),
    exec (.ckbyte x) s = .next { s with acc := s.acc ^^^ x } ∧
    exec (.ckbyte 0x00) s = .next s ∧
    exec (.ckbyte s.acc) s = .next { s with acc := 0x00 } ∧
    runInstrs [.ckbyte x, .ckbyte x] s = .next s ∧
    ∀ rest, NoTransfer s → s.pending = plain (.ckPins false (some x)) :: rest →
      step s = .next { s with acc := s.acc ^^^ x, pending := rest }

/-- 40 §2 (`CKCLR`; the same-cycle clause is decision D14, done in one step: log entry 22): `ACC <- 0x00` and nothing else;
with `ck_valid` in the same cycle the clear takes effect first. -/
def Obligations.CkclrClearsFirst : Prop :=
  ∀ s : State,
    exec .ckclr s = .next { s with acc := 0x00 } ∧
    (∀ rest, NoTransfer s → s.pending = plain (.ckPins true none) :: rest →
      step s = .next { s with acc := 0x00, pending := rest }) ∧
    ∀ x rest, NoTransfer s → s.pending = plain (.ckPins true (some x)) :: rest →
      step s = .next { s with acc := 0x00 ^^^ x, pending := rest }

/-- 40 §2 (`CKREAD`; the law is derived): it returns `ACC` and writes nothing of the block; after `CKCLR` and one
`CKBYTE` per byte of `q` it returns the xor of the bytes of `q`. The fold is decision D14. -/
def Obligations.CkreadReturnsChecksumOfSequence : Prop :=
  (∀ s : State, exec .ckread s = .next { s with sumOut := s.sumOut ++ [s.acc] }) ∧
  ∀ (q : List Byte) (s : State),
    runInstrs (.ckclr :: q.map .ckbyte ++ [.ckread]) s =
      .next { s with acc := q.foldl (· ^^^ ·) 0x00, sumOut := s.sumOut ++ [q.foldl (· ^^^ ·) 0x00] }

/-- 40 §3 (`FRAME2`, decision D15): `A5 op` on TX, `tx_last` with the second byte; for every `op`; nothing else. -/
def Obligations.FrameWithoutPayload : Prop :=
  ∀ (op : Byte) (s : State),
    exec (.frame2 op) s =
      .next { s with txOffer := s.txOffer ++ [{ data := 0xA5, last := false }, { data := op, last := true }] }

/-- 40 §3 (`FRAMEP`, decisions D14 to D16): `A5 op len payload` and then the xor of all of these, `tx_last` with it;
`ACC` and everything else stay. -/
def Obligations.FrameWithPayload : Prop :=
  ∀ (op : Byte) (p : List Byte) (s : State), p.length ≤ 255 →
    exec (.framep op p) s =
      .next { s with
        txOffer := s.txOffer ++
          (([0xA5, op, BitVec.ofNat 8 p.length] ++ p).map (fun x => { data := x, last := false }) ++
            [{ data := ([0xA5, op, BitVec.ofNat 8 p.length] ++ p).foldl (· ^^^ ·) 0x00, last := true }]) }

/-- 40 §4 (check of a complete frame, derived): what `FRAMEP` sends folds to 0x00, and its bytes are as many as its own
length byte says. -/
def Obligations.SentFrameFoldsToZero : Prop :=
  ∀ (op : Byte) (p : List Byte) (s : State), p.length ≤ 255 →
    ∃ f : List TxByte,
      exec (.framep op p) s = .next { s with txOffer := s.txOffer ++ f } ∧
      (f.map TxByte.data).foldl (· ^^^ ·) 0x00 = 0x00 ∧
      f.length = 4 + ((f.map TxByte.data).getD 2 0).toNat ∧
      ∀ k, ((f.map TxByte.last).getD k false = true ↔ k + 1 = f.length)

/-- 40 §4 (laws of the fold, derived from decision D14): order does not matter, `CK(x ++ y)` is the xor of both, a
doubled sequence gives 0x00, one changed bit changes that bit. -/
def Obligations.ChecksumFoldLaws : Prop :=
  (∀ x y : List Byte, List.Perm x y → ck x = ck y) ∧
  (∀ x y : List Byte, ck (x ++ y) = ck x ^^^ ck y) ∧
  (∀ q : List Byte, ck (q ++ q) = 0x00) ∧
  (∀ (p q : List Byte) (x : Byte) (k : Nat), k < 8 →
    ck (p ++ (x ^^^ BitVec.twoPow 8 k) :: q) = ck (p ++ x :: q) ^^^ BitVec.twoPow 8 k)

/-- 10 §3 and 70 §3 (the frame interface): a request is taken exactly when no frame is in progress: none lacks payload bytes
and none is on the TX stream (log entry 11); without payload, or with `len` = 0, it is the frame at once, else it waits for
its payload. `fp_ready` is 1, and a payload byte is taken, exactly while payload bytes are lacking; the last one makes the
frame, an earlier one is stored. A request or a payload byte that is not taken stays on its wires, first in order, and the
step does what it does without it: with nothing else presented it keeps the state (log entry 7). -/
def Obligations.FrameRequestsTakeTheirPayload : Prop :=
  ∀ s : State,
    (∀ op h len, s.takes (plain (.frameReq op h len)) = true ↔ s.frame = none ∧ s.txOffer = []) ∧
    (s.fpReady = true ↔ ∃ r, s.frame = some r ∧ s.fpBuf.length < r.len.toNat) ∧
    (∀ x, s.takes (plain (.fpByte x)) = s.fpReady) ∧
    (NoTransfer s →
      (∀ op h len rest, s.frame = none → s.txOffer = [] → s.pending = plain (.frameReq op h len) :: rest →
        (h = false → step s = exec (.frame2 op) { s with pending := rest }) ∧
        (h = true → len = 0 → step s = exec (.framep op []) { s with fpBuf := [], pending := rest }) ∧
        (h = true → len ≠ 0 →
          step s = .next { s with frame := some { op := op, len := len }, fpBuf := [], pending := rest })) ∧
      (∀ r x rest, s.frame = some r → s.pending = plain (.fpByte x) :: rest →
        (s.fpBuf.length + 1 < r.len.toNat → step s = .next { s with fpBuf := s.fpBuf ++ [x], pending := rest }) ∧
        (s.fpBuf.length + 1 = r.len.toNat →
          step s = exec (.framep r.op (s.fpBuf ++ [x])) { s with frame := none, fpBuf := [], pending := rest })) ∧
      (∀ op h len rest, s.frame ≠ none ∨ s.txOffer ≠ [] → s.pending = plain (.frameReq op h len) :: rest →
        (rest = [] → step s = .next s) ∧
        ∀ t, step { s with pending := rest } = .next t →
          step s = .next { t with pending := plain (.frameReq op h len) :: t.pending }) ∧
      (∀ x rest, s.fpReady = false → s.pending = plain (.fpByte x) :: rest →
        (rest = [] → step s = .next s) ∧
        ∀ t, step { s with pending := rest } = .next t →
          step s = .next { t with pending := plain (.fpByte x) :: t.pending }))

/-- 70 §3 (CKG usage): a request with payload takes exactly `len` payload bytes, one a step, and is then one `FRAMEP`;
excess bytes stay on the payload stream for the next request; bytes presented before their request wait for it (log
entries 7 and 11). -/
def Obligations.FrameRunTakesExactlyItsPayload : Prop :=
  ∀ (op : Byte) (p excess : List Byte) (rest : List Input) (s : State), p.length ≤ 255 → NoTransfer s →
    s.frame = none → s.txOffer = [] →
    (s.pending = plain (.frameReq op true (BitVec.ofNat 8 p.length)) :: payloadRun (p ++ excess) ++ rest →
      runSteps (1 + p.length) s = exec (.framep op p) { s with fpBuf := [], pending := payloadRun excess ++ rest }) ∧
    (s.pending = payloadRun (p ++ excess) ++ plain (.frameReq op true (BitVec.ofNat 8 p.length)) :: rest →
      runSteps (1 + p.length) s = exec (.framep op p) { s with fpBuf := [], pending := payloadRun excess ++ rest })

/-! ### Response classifier -/

/-- 41 §1 (`CLASSIFY`; the boot prefix is decision D28, the exact length of Info D29): the five results, each
exactly when its length and leading bytes hold, so in any order of the tests, for every configured prefix, and the default
prefix; only the length and the leading bytes are read, eight of them by default. -/
def Obligations.ClassifyReadsLengthAndPrefix : Prop :=
  (∀ (cfg : Config.Settings) (b : List Byte),
    (classify cfg b = .health ↔ b.length = 10 ∧ b.take 7 = [0xA5, 0x5A, 0x03, 0x00, 0x00, 0x00, 0x06]) ∧
    (classify cfg b = .info ↔ b.length = 27 ∧ b.take 7 = [0xA5, 0x5A, 0x14, 0x00, 0x00, 0x00, 0x04]) ∧
    (classify cfg b = .scanStartAck ↔ b.length = 7 ∧ b.take 7 = [0xA5, 0x5A, 0x05, 0x00, 0x00, 0x40, 0x81]) ∧
    (classify cfg b = .bootAnnouncement ↔ b.length = 56 ∧ b.take cfg.bootPrefix.length = cfg.bootPrefix)) ∧
  (∀ b : List Byte, classify Config.standard b = .bootAnnouncement ↔
    b.length = 56 ∧ b.take 8 = [0x52, 0x50, 0x20, 0x4C, 0x49, 0x44, 0x41, 0x52]) ∧
  (∀ (cfg : Config.Settings) (n : Nat) (b b' : List Byte), 7 ≤ n → cfg.bootPrefix.length ≤ n →
    b.length = b'.length → b.take n = b'.take n → classify cfg b = classify cfg b')

/-- 41 R111: the class code (as its number too), and exactly the one operation, for each of the seven cases; `scan_en` is
the level when the last byte is transferred; an `ERROR` comes only from a decoded chunk. -/
def Obligations.RxPerformsExactlyOneOperation : Prop :=
  (∀ (b : List Byte) (e : Bool) (s : State),
    ∃ t, exec (.rx b e) s = .next t ∧ exec (decodeBuffer s.cfg b e) s = .next t ∧
      match classify s.cfg b with
      | .health => t.clsOut = s.clsOut ++ [.health] ∧ t.lastClass = some 1 ∧
          decodeBuffer s.cfg b e = .health (healthStatus b) (healthErrorCode b)
      | .info => t.clsOut = s.clsOut ++ [.info] ∧ t.lastClass = some 2 ∧
          decodeBuffer s.cfg b e = .info (infoModel b) (infoFirmwareMinor b) (infoFirmwareMajor b) (infoHardware b)
            (infoSerial b)
      | .scanStartAck => t.clsOut = s.clsOut ++ [.scanack] ∧ t.lastClass = some 3 ∧ decodeBuffer s.cfg b e = .scanack
      | .bootAnnouncement => t.clsOut = s.clsOut ++ [.boot] ∧ t.lastClass = some 4 ∧
          decodeBuffer s.cfg b e = .boot (b.drop s.cfg.bootPrefix.length)
      | .unrecognized =>
        if b.length = 256 then
          if e = true then
            t.clsOut = s.clsOut ++ [.scanchunk] ∧ t.lastClass = some 5 ∧ decodeBuffer s.cfg b e = .scanchunk b ∧
              exec (.decode b) { s with clsOut := s.clsOut ++ [.scanchunk] } = .next t
          else t.clsOut = s.clsOut ++ [.scandrop] ∧ t.lastClass = some 6 ∧ decodeBuffer s.cfg b e = .scandrop b ∧
              t = { s with clsOut := s.clsOut ++ [.scandrop] }
        else t.clsOut = s.clsOut ++ [.unrec] ∧ t.lastClass = some 0 ∧ decodeBuffer s.cfg b e = .unrec b ∧
              t = { s with clsOut := s.clsOut ++ [.unrec] }) ∧
  (∀ (x : Byte) (rest : List Input) (s : State), NoTransfer s → s.evOffer = [] → s.rxBuf.length ≤ 256 →
    s.pending = plain (.rxByte x true) :: rest →
    step s = exec (.rx (s.rxBuf ++ [x]) s.scanEn) { s with rxBuf := [], pending := rest }) ∧
  (∀ (b : List Byte) (e : Bool) (s t : State) (new : List Event) (k : Cause), exec (.rx b e) s = .next t →
    t.evOffer = s.evOffer ++ new → Event.error k ∈ new → b.length = 256 ∧ e = true)

/-- 41 R112: a Health buffer gives class 1 and one `HEALTH` event with byte 7 unmasked and bytes 8 and 9 little-endian,
whatever `scan_en` is, and changes nothing else; ten bytes with another preamble, or eleven bytes, are `UNREC`. -/
def Obligations.HealthBufferReported : Prop :=
  ∀ (b : List Byte) (e : Bool) (s : State),
    ClassCode.code .health = 1 ∧
    (∀ (status : Byte) (errorCode : BitVec 16),
      exec (.health status errorCode) s =
        .next { s with clsOut := s.clsOut ++ [.health], evOffer := s.evOffer ++ [.health status errorCode] }) ∧
    (b.length = 10 → b.take 7 = [0xA5, 0x5A, 0x03, 0x00, 0x00, 0x00, 0x06] →
      exec (.rx b e) s =
        .next { s with
          clsOut := s.clsOut ++ [.health]
          evOffer := s.evOffer ++
            [.health (b.getD 7 0) (BitVec.ofNat 16 ((b.getD 8 0).toNat + 256 * (b.getD 9 0).toNat))] }) ∧
    (b.length = 10 → b.take 7 ≠ [0xA5, 0x5A, 0x03, 0x00, 0x00, 0x00, 0x06] →
      decodeBuffer s.cfg b e = .unrec b ∧ exec (.rx b e) s = .next { s with clsOut := s.clsOut ++ [.unrec] }) ∧
    (b.length = 11 →
      decodeBuffer s.cfg b e = .unrec b ∧ exec (.rx b e) s = .next { s with clsOut := s.clsOut ++ [.unrec] })

/-- 41 §2 (`INFO`; the exact length is decision D29, the offsets D19): class 2 and one `INFO` event with the fields at
offsets 7 to 26, and nothing else; 27 bytes with another preamble are `UNREC`. -/
def Obligations.InfoBufferReported : Prop :=
  ∀ (b : List Byte) (e : Bool) (s : State),
    (∀ (m f g h : Byte) (serial : List Byte), serial.length = 16 →
      exec (.info m f g h serial) s =
        .next { s with clsOut := s.clsOut ++ [.info], evOffer := s.evOffer ++ [.info m f g h serial] }) ∧
    (b.length = 27 → b.take 7 = [0xA5, 0x5A, 0x14, 0x00, 0x00, 0x00, 0x04] →
      exec (.rx b e) s =
        .next { s with
          clsOut := s.clsOut ++ [.info]
          evOffer := s.evOffer ++
            [.info (b.getD 7 0) (b.getD 8 0) (b.getD 9 0) (b.getD 10 0) (b.drop 11)] }) ∧
    (b.length = 27 → b.take 7 ≠ [0xA5, 0x5A, 0x14, 0x00, 0x00, 0x00, 0x04] →
      exec (.rx b e) s = .next { s with clsOut := s.clsOut ++ [.unrec] })

/-- 41 §2 (`SCANACK`; that the residue stays is decision D12): the one sequence gives class 3 and `SCAN_START` and nothing
else, whatever `scan_en` is; any other seven bytes are `UNREC`; followed by 249 bytes it is a scan chunk. -/
def Obligations.ScanackReported : Prop :=
  ∀ (b : List Byte) (e : Bool) (s : State),
    exec .scanack s = .next { s with clsOut := s.clsOut ++ [.scanack], evOffer := s.evOffer ++ [.scanStart] } ∧
    exec (.rx [0xA5, 0x5A, 0x05, 0x00, 0x00, 0x40, 0x81] e) s =
      .next { s with clsOut := s.clsOut ++ [.scanack], evOffer := s.evOffer ++ [.scanStart] } ∧
    (b.length = 7 → b ≠ [0xA5, 0x5A, 0x05, 0x00, 0x00, 0x40, 0x81] →
      exec (.rx b e) s = .next { s with clsOut := s.clsOut ++ [.unrec] }) ∧
    (b.length = 249 →
      decodeBuffer s.cfg ([0xA5, 0x5A, 0x05, 0x00, 0x00, 0x40, 0x81] ++ b) true =
        .scanchunk ([0xA5, 0x5A, 0x05, 0x00, 0x00, 0x40, 0x81] ++ b))

/-- 41 §2 (`BOOT`; the prefix is decision D28, that the residue stays D12): 56 bytes that begin with the configured prefix
give class 4 and `BOOT` and nothing else, whatever the tail; 56 bytes that do not are `UNREC`. At the default the prefix is
the eight bytes, and the seven-byte spelling is `UNREC`. -/
def Obligations.BootReported : Prop :=
  ∀ (tail : List Byte) (e : Bool) (s : State),
    (s.cfg.bootPrefix.length + tail.length = 56 →
      exec (.boot tail) s = .next { s with clsOut := s.clsOut ++ [.boot], evOffer := s.evOffer ++ [.boot] } ∧
      decodeBuffer s.cfg (s.cfg.bootPrefix ++ tail) e = .boot tail ∧
      exec (.rx (s.cfg.bootPrefix ++ tail) e) s =
        .next { s with clsOut := s.clsOut ++ [.boot], evOffer := s.evOffer ++ [.boot] }) ∧
    (tail.length = 56 → tail.take s.cfg.bootPrefix.length ≠ s.cfg.bootPrefix →
      exec (.rx tail e) s = .next { s with clsOut := s.clsOut ++ [.unrec] }) ∧
    (s.cfg = Config.standard →
      (tail.length = 48 →
        exec (.rx ([0x52, 0x50, 0x20, 0x4C, 0x49, 0x44, 0x41, 0x52] ++ tail) e) s =
          .next { s with clsOut := s.clsOut ++ [.boot], evOffer := s.evOffer ++ [.boot] }) ∧
      (tail.length = 49 →
        exec (.rx ([0x52, 0x50, 0x4C, 0x49, 0x44, 0x41, 0x52] ++ tail) e) s =
          .next { s with clsOut := s.clsOut ++ [.unrec] }))

/-- 41 R116: any 256 bytes with `scan_en` = 1, whatever they begin with, are class 5 and exactly `DECODE`: the residue is
rewritten, the events are those of its units, 51 of them or 52 by the residue length. -/
def Obligations.ScanchunkIsDecode : Prop :=
  ∀ (b : List Byte) (s : State), b.length = 256 →
    ClassCode.code .scanchunk = 5 ∧
    (∀ i ∈ [Instr.rx b true, Instr.scanchunk b],
      exec i s = exec (.decode b) { s with clsOut := s.clsOut ++ [.scanchunk] } ∧
      exec i s =
        .next { s with
          clsOut := s.clsOut ++ [.scanchunk]
          res := (s.res ++ b).drop (5 * ((s.res ++ b).length / 5))
          evOffer := s.evOffer ++ eventsOf (unitsOf (s.res ++ b)) }) ∧
    (s.res.length ≤ 4 → (unitsOf (s.res ++ b)).length = if s.res.length = 4 then 52 else 51)

/-- 41 §3 (`SCANDROP`, `UNREC`; decisions D10, D11, D20): only the class code, 6 or 0, is shown; no event, no other change,
whatever `scan_en` is. -/
def Obligations.DroppedBuffersOnlyShowTheirClass : Prop :=
  ∀ (b : List Byte) (e : Bool) (s : State),
    (b.length = 256 →
      exec (.scandrop b) s = .next { s with clsOut := s.clsOut ++ [.scandrop] } ∧
      exec (.rx b false) s = .next { s with clsOut := s.clsOut ++ [.scandrop] }) ∧
    (b.length ≠ 256 → classify s.cfg b = .unrecognized →
      exec (.unrec b) s = .next { s with clsOut := s.clsOut ++ [.unrec] } ∧
      exec (.rx b e) s = .next { s with clsOut := s.clsOut ++ [.unrec] }) ∧
    (b.length ∉ [7, 10, 27, 56, 256] → exec (.rx b e) s = .next { s with clsOut := s.clsOut ++ [.unrec] })

/-- 41 R119: exactly one event, of its own kind and never an `ERROR`, for each recognised reply; none for `UNREC` and
`SCANDROP`; for `SCANCHUNK` as many as `DECODE` produces, `DATA` and `ERROR` only. -/
def Obligations.OneEventPerRecognisedReply : Prop :=
  ∀ (b : List Byte) (e : Bool) (s : State),
    ∃ new : List Event,
      (∃ t, exec (.rx b e) s = .next t ∧ t.evOffer = s.evOffer ++ new) ∧
      (∃ t, exec (decodeBuffer s.cfg b e) s = .next t ∧ t.evOffer = s.evOffer ++ new) ∧
      match decodeBuffer s.cfg b e with
      | .health _ _ => ∃ status errorCode, new = [.health status errorCode]
      | .info _ _ _ _ _ => ∃ m f g h serial, new = [.info m f g h serial]
      | .scanack => new = [.scanStart]
      | .boot _ => new = [.boot]
      | .scanchunk _ => (∃ t, exec (.decode b) s = .next t ∧ t.evOffer = s.evOffer ++ new) ∧
          ∀ ev ∈ new, (∃ x, ev = .data x) ∨ ∃ c, ev = .error c
      | .scandrop _ => new = []
      | .unrec _ => new = []
      | _ => False

/-- 41 §4 (derived): a recognised reply gives the same whatever `scan_en`, the residue and the earlier buffers are, in every
state of the same block, and leaves the residue. -/
def Obligations.RepliesIndependentOfScan : Prop :=
  ∀ (b : List Byte) (s : State), classify s.cfg b ≠ .unrecognized →
    exec (.rx b true) s = exec (.rx b false) s ∧
    ∃ c ev, ∀ (e : Bool) (s' : State), s'.cfg = s.cfg →
      exec (.rx b e) s' = .next { s' with clsOut := s'.clsOut ++ [c], evOffer := s'.evOffer ++ [ev] }

/-! ### Scan unit -/

/-- 30 §2 (field assembly; the byte order of the angle is decision D3): the fields of a unit from its bytes, their ranges,
and the real angle and distance. -/
def Obligations.UnitFieldsFromBytes : Prop :=
  ∀ u0 u1 u2 u3 u4 : Byte,
    let w := unitWord [u0, u1, u2, u3, u4]
    flagS w = w.getLsbD 0 ∧ flagNS w = w.getLsbD 1 ∧ flagC w = w.getLsbD 8 ∧
    flagS w = u0.getLsbD 0 ∧ flagNS w = u0.getLsbD 1 ∧ flagC w = u1.getLsbD 0 ∧
    fieldQ w = w.extractLsb' 2 6 ∧ fieldA w = w.extractLsb' 9 15 ∧ fieldD w = w.extractLsb' 24 16 ∧
    (fieldQ w).toNat = u0.toNat / 4 ∧ (fieldQ w).toNat ≤ 63 ∧
    (fieldA w).toNat = u1.toNat / 2 + 128 * u2.toNat ∧ (fieldA w).toNat ≤ 32767 ∧
    (fieldD w).toNat = u3.toNat + 256 * u4.toNat ∧ (fieldD w).toNat ≤ 65535 ∧
    ∀ x : Sample, x.angleQ6 = fieldA w → x.distQ2 = fieldD w →
      x.angle = ((u1.toNat / 2 + 128 * u2.toNat : Nat) : Rat) / 64 ∧ 0 ≤ x.angle ∧ x.angle ≤ 32767 / 64 ∧
      x.distance = ((u3.toNat + 256 * u4.toNat : Nat) : Rat) / 4 ∧ 0 ≤ x.distance ∧ x.distance ≤ 65535 / 4

/-- 42 §2 (START_PAIR; that a `UNIT` row as an operation delivers its result is log entry 4): when startFlag equals inverseStart the unit always fails with cause 1, whatever its other 38 bits are: exactly
when byte 0 is 0 or 3 modulo 4; both malformed forms raise it. -/
def Obligations.EqualStartPairAlwaysFails : Prop :=
  (∀ u0 u1 u2 u3 u4 : Byte,
    let w := unitWord [u0, u1, u2, u3, u4]
    (flagS w = flagNS w ↔ u0.toNat % 4 = 0 ∨ u0.toNat % 4 = 3) ∧
    (unitResult w = .error .startPair ↔ u0.toNat % 4 = 0 ∨ u0.toNat % 4 = 3) ∧
    (flagS w = flagNS w → ∀ s : State,
      exec (decodeUnit w) s = .next { s with evOffer := s.evOffer ++ [.error .startPair] })) ∧
  (∀ (q : BitVec 6) (c : Bool) (a : BitVec 15) (d : BitVec 16) (s : State),
    exec (.unitErr1Zeros q c a d) s = .next { s with evOffer := s.evOffer ++ [.error .startPair] } ∧
    exec (.unitErr1Ones q c a d) s = .next { s with evOffer := s.evOffer ++ [.error .startPair] })

/-- 42 §2 (CHECK_BIT; that the pair comes first is decision D4, log entry 26; that a `UNIT` row delivers its result is log
entry 4): a unit with checkBit 0 always fails: exactly when byte 1 is even; cause 2 unless the pair fails first. -/
def Obligations.ClearCheckBitAlwaysFails : Prop :=
  (∀ u0 u1 u2 u3 u4 : Byte,
    let w := unitWord [u0, u1, u2, u3, u4]
    (flagC w = false ↔ u1.toNat % 2 = 0) ∧
    (u1.toNat % 2 = 0 → ∃ c, unitResult w = .error c) ∧
    (unitResult w = .error .checkBit ↔ u1.toNat % 2 = 0 ∧ (u0.toNat % 4 = 1 ∨ u0.toNat % 4 = 2)) ∧
    (u1.toNat % 2 = 0 → u0.toNat % 4 = 1 ∨ u0.toNat % 4 = 2 → ∀ s : State,
      exec (decodeUnit w) s = .next { s with evOffer := s.evOffer ++ [.error .checkBit] })) ∧
  (∀ (f : Bool) (q : BitVec 6) (a : BitVec 15) (d : BitVec 16) (s : State),
    exec (.unitErr2 f q a d) s = .next { s with evOffer := s.evOffer ++ [.error .checkBit] })

/-- 42 §2 (ANGLE_RANGE; that it comes last is decision D4; that a `UNIT` row delivers its result is log entry 4): with the other checks passed, a raw angle fails exactly above
23040, cause 3; 23040 passes and 23041 fails. -/
def Obligations.AngleAboveFullCircleFails : Prop :=
  (∀ w : UnitWord, flagS w ≠ flagNS w → flagC w = true →
    (unitResult w = .error .angleRange ↔ 23040 < (fieldA w).toNat) ∧
    ((fieldA w).toNat ≤ 23040 → unitResult w =
      .ok { start := flagS w, quality := fieldQ w, angleQ6 := fieldA w, distQ2 := fieldD w })) ∧
  (∀ (f : Bool) (q : BitVec 6) (a : BitVec 15) (d : BitVec 16) (s : State), 23040 < a.toNat →
    exec (.unitErr3 f q a d) s = .next { s with evOffer := s.evOffer ++ [.error .angleRange] }) ∧
  unitResult (unitWord [0x01, 0x01, 0xB4, 0x00, 0x00]) =
    .ok { start := true, quality := 0, angleQ6 := 23040, distQ2 := 0 } ∧
  unitResult (unitWord [0x01, 0x03, 0xB4, 0x00, 0x00]) = .error .angleRange

/-- 42 §2 (no check on distance or quality; that a `UNIT` row delivers its result is log entry 4): distance and quality are never checked: with an angle that passes, every `Q` and every `D` gives its sample,
0 and 65535 too. -/
def Obligations.EveryQualityAndDistanceAccepted : Prop :=
  (∀ (q : BitVec 6) (a : BitVec 15) (d : BitVec 16) (s : State), a.toNat ≤ 23040 →
    exec (.unitStart q a d) s =
      .next { s with evOffer := s.evOffer ++ [.data { start := true, quality := q, angleQ6 := a, distQ2 := d }] } ∧
    exec (.unitCont q a d) s =
      .next { s with evOffer := s.evOffer ++ [.data { start := false, quality := q, angleQ6 := a, distQ2 := d }] }) ∧
  (∀ w w' : UnitWord, flagS w = flagS w' → flagNS w = flagNS w' → flagC w = flagC w' → fieldA w = fieldA w' →
    (unitGood w = true ↔ unitGood w' = true) ∧
    ∀ c, (unitResult w = .error c ↔ unitResult w' = .error c)) ∧
  unitResult (unitWord [0xFE, 0x01, 0xB4, 0xFF, 0xFF]) =
    .ok { start := false, quality := 63, angleQ6 := 23040, distQ2 := 65535 }

/-- 42 §3 (the fixture encoder, derived): `ENC` and `UNIT` are inverse: a sample within range comes back, an angle above
range fails with cause 3, and every well-formed unit is `ENC` of its own sample. -/
def Obligations.FixtureEncoderInvertsUnit : Prop :=
  (∀ (f : Bool) (q : BitVec 6) (a : BitVec 15) (d : BitVec 16),
    unitResult (unitWord (encUnit f q a d)) =
      if a.toNat ≤ 23040 then .ok { start := f, quality := q, angleQ6 := a, distQ2 := d }
      else .error .angleRange) ∧
  (∀ (u : List Byte) (x : Sample), u.length = 5 → unitResult (unitWord u) = .ok x →
    encUnit x.start x.quality x.angleQ6 x.distQ2 = u)

/-- 30 §4 (malformed scan units; the priority is decision D4): by the bits of `W`, exactly which units are well-formed and
which cause each other one has. -/
def Obligations.UnitWordsPartitioned : Prop :=
  ∀ w : UnitWord,
    (unitGood w = true ↔
      (w.toNat % 4 = 1 ∨ w.toNat % 4 = 2) ∧ w.toNat / 256 % 2 = 1 ∧ w.toNat / 512 % 32768 ≤ 23040) ∧
    (w.toNat % 4 = 0 ∨ w.toNat % 4 = 3 → unitResult w = .error .startPair) ∧
    (w.toNat % 4 = 1 ∨ w.toNat % 4 = 2 → w.toNat / 256 % 2 = 0 → unitResult w = .error .checkBit) ∧
    (w.toNat % 4 = 1 ∨ w.toNat % 4 = 2 → w.toNat / 256 % 2 = 1 → 23040 < w.toNat / 512 % 32768 →
      unitResult w = .error .angleRange)

/-! ### Chunks and the residue -/

/-- 42 R147: `DECODE`. The residue becomes the last `L mod 5` bytes of `RES ++ c`, whatever the units are. The new events
are a `DATA` for each unit before the first malformed one, in order, and one `ERROR` for that one if there is one.
Nothing else changes. An empty chunk changes nothing; fewer than five bytes only lengthen the residue. A chunk on the
direct port is this operation, and so is a 256-byte buffer that is decoded; the rule's example is the last clause. -/
def Obligations.DecodeOneChunk : Prop :=
  ∀ (c : List Byte) (s : State),
    let buf := s.res ++ c
    let unit := fun k : Nat => unitWord ((buf.drop (5 * k)).take 5)
    (∃ new : List Event,
      exec (.decode c) s =
        .next { s with res := buf.drop (5 * (buf.length / 5)), evOffer := s.evOffer ++ new } ∧
      new.length ≤ buf.length / 5 ∧
      (∀ k, k + 1 < new.length → ∃ x, unitResult (unit k) = .ok x ∧ new[k]? = some (.data x)) ∧
      (∀ k, k + 1 = new.length →
        (∃ x, unitResult (unit k) = .ok x ∧ new[k]? = some (.data x) ∧ new.length = buf.length / 5) ∨
        (∃ e, unitResult (unit k) = .error e ∧ new[k]? = some (.error e))) ∧
      (new = [] → buf.length / 5 = 0)) ∧
    (c = [] → s.res.length ≤ 4 → exec (.decode c) s = .next s) ∧
    (buf.length < 5 → exec (.decode c) s = .next { s with res := buf }) ∧
    (buf.length % 5 = 0 → ∃ t, exec (.decode c) s = .next t ∧ t.res = []) ∧
    decode s.cfg (.chunk c) = .ok (.decode c) ∧
    (c.length = 256 → decodeBuffer s.cfg c true = .scanchunk c ∧
      exec (.scanchunk c) s = exec (.decode c) { s with clsOut := s.clsOut ++ [.scanchunk] }) ∧
    (s.res = [] → c = [0x01, 0x03, 0x00, 0x04, 0x00, 0x3E, 0x83] →
      exec (.decode c) s =
        .next { s with
          res := [0x3E, 0x83]
          evOffer := s.evOffer ++ [.data { start := true, quality := 0, angleQ6 := 1, distQ2 := 4 }] })

/-- 42 §3 (the residue commit; that it happens after a failure too is decision D5): two chunks of the same length whose
last bytes agree leave the same residue, of `(r + n) mod 5` bytes, whether or not a unit fails. -/
def Obligations.ResidueCommittedWhateverFails : Prop :=
  ∀ (c c' : List Byte) (s : State), c.length = c'.length → c.drop (c.length - 4) = c'.drop (c'.length - 4) →
    ∃ t t', exec (.decode c) s = .next t ∧ exec (.decode c') s = .next t' ∧
      t.res = t'.res ∧ t.res.length = (s.res.length + c.length) % 5 ∧ List.IsSuffix t.res (s.res ++ c)

/-- 42 §3 (units per 256-byte chunk, derived): five chunks from an empty residue leave 1, 2, 3, 4, 0 bytes; with no
malformed unit they add exactly 256 events, each of them `DATA`. -/
def Obligations.FiveChunksCarryWholeUnits : Prop :=
  ∀ (c1 c2 c3 c4 c5 : List Byte) (s : State), s.res = [] →
    c1.length = 256 → c2.length = 256 → c3.length = 256 → c4.length = 256 → c5.length = 256 →
    ∃ t1 t2 t3 t4 t5,
      exec (.decode c1) s = .next t1 ∧ exec (.decode c2) t1 = .next t2 ∧ exec (.decode c3) t2 = .next t3 ∧
      exec (.decode c4) t3 = .next t4 ∧ exec (.decode c5) t4 = .next t5 ∧
      [t1, t2, t3, t4, t5].map (fun t => t.res.length) = [1, 2, 3, 4, 0] ∧
      ((∀ w ∈ unitsOf (c1 ++ c2 ++ c3 ++ c4 ++ c5), unitGood w = true) →
        ∃ new, t5.evOffer = s.evOffer ++ new ∧ new.length = 256 ∧ ∀ ev ∈ new, ∃ x, ev = .data x)

/-- 60 §4 (what a ParseError does; that the events then leave one a step, before anything but an `RST`, is log entries 5 and
6): with unit `k` the first malformed one, of cause `e`: the samples of units 0 to `k − 1`, then one `ERROR(e)`, and
nothing of any later unit; the residue as without an error; nothing else changes, `scan_en` neither; once the events have
left, the block is ready for the next transaction. -/
def Obligations.ParseErrorEntry : Prop :=
  ∀ (c : List Byte) (s : State) (k : Nat) (e : Cause) (xs : List Sample),
    k < (s.res ++ c).length / 5 → xs.length = k →
    (∀ j, (h : j < xs.length) → unitResult (unitWord (((s.res ++ c).drop (5 * j)).take 5)) = .ok xs[j]) →
    unitResult (unitWord (((s.res ++ c).drop (5 * k)).take 5)) = .error e →
    exec (.decode c) s =
      .next { s with
        res := (s.res ++ c).drop (5 * ((s.res ++ c).length / 5))
        evOffer := s.evOffer ++ xs.map .data ++ [.error e] } ∧
    ∀ t, exec (.decode c) s = .next t → s.evReady = true → s.rstNow = false →
      ∃ u, runSteps t.evOffer.length t = .next u ∧ u.rxReady = true ∧
        u.evOut = s.evOut ++ s.evOffer ++ xs.map .data ++ [.error e] ∧ u.res = t.res ∧ u.scanEn = s.scanEn

/-- 42 §3 (chunking invariance, derived): a byte sequence without malformed units may be cut into any consecutive pieces,
empty ones too: decoding the pieces in order gives the same events in the same order and the same residue, the same
state altogether, as decoding it whole. -/
def Obligations.ChunkingInvariance : Prop :=
  ∀ (cs : List (List Byte)) (s : State), s.res.length ≤ 4 →
    (∀ w ∈ unitsOf (s.res ++ cs.flatten), unitGood w = true) →
    runInstrs (cs.map .decode) s = exec (.decode cs.flatten) s

/-- 42 §5 (a streaming realisation, derived): byte by byte with `ABORT` it gives the events and the residue of `DECODE`,
after a failure too. -/
def Obligations.StreamingRealisationAgrees : Prop :=
  ∀ (c : List Byte) (s : State), s.res.length ≤ 4 →
    exec (.decode c) s =
      .next { s with res := (streamChunk s.res c).hold, evOffer := s.evOffer ++ (streamChunk s.res c).events }

/-- 10 §2 (the cursor; `POS` is decision D22): after `k` units it is a multiple of 5, at 5·k unless `ABORT` is set, and with
`ABORT` it stands at the unit that failed; on the RX path no unit starts above 255. -/
def Obligations.CursorStaysOnUnits : Prop :=
  ∀ (buf : List Byte) (k : Nat) (s : State), k ≤ buf.length / 5 →
    let c := (unitLoop buf k (Cursor.cleared, s)).1
    c.pos % 5 = 0 ∧ c.pos ≤ 5 * k ∧ (c.abort = false → c.pos = 5 * k) ∧
    (c.abort = true → c.pos < 5 * k ∧ (unitResult (unitWord ((buf.drop c.pos).take 5))).isOk = false) ∧
    (buf.length ≤ 260 → k < buf.length / 5 → c.pos ≤ 255)

/-! ### Host control -/

/-- 43 §1 (`RST`, decision D13; that levels stay driven is log entry 21, what is on the wires log entry 11): the residue, `ACC`
and every transient register as at reset, transfers under way abandoned; the configuration and what the environment
drives, got and will present stay. It wins over whatever any port carries at the same moment and over every transfer that
is possible then, in every state. -/
def Obligations.RstRestoresReset : Prop :=
  ∀ s : State,
    exec .rst s =
      .next { s with res := [], acc := 0x00, rxBuf := [], dcBuf := [], frame := none, fpBuf := [],
                     evOffer := [], txOffer := [] } ∧
    exec .rst s =
      .next { State.reset with
        cfg := s.cfg, scanEn := s.scanEn, evReady := s.evReady, txReady := s.txReady, clsOut := s.clsOut,
        evOut := s.evOut, txOut := s.txOut, sumOut := s.sumOut, pending := s.pending } ∧
    ∀ (a : Activity) (rest : List Input), s.pending = { rst := true, act := a } :: rest →
      step s = match a with
        | .scanEn level => exec .rst { s with pending := rest, scanEn := level }
        | .evReady level => exec .rst { s with pending := rest, evReady := level }
        | .txReady level => exec .rst { s with pending := rest, txReady := level }
        | _ => exec .rst { s with pending := rest }

/-- 43 §1, 00 §6, 93 U14 (`RESCLR`, `SCANEN`; decisions D9, D12): `res_clr` empties the residue and nothing else, and is
ignored while a transaction is in progress: while an event waits (log entry 5), or a frame request lacks payload bytes or
has bytes on the TX stream (log entry 21). A buffer of which only some bytes are received does not count: on the RX port log
entry 21, on the direct port log entry 28. A level on `scan_en` writes nothing of the block, and is driven during a
transaction too. -/
def Obligations.ResclrAndScanenEffects : Prop :=
  ∀ (s : State),
    exec .resclr s = .next { s with res := [] } ∧
    (∀ level, exec (.scanen level) s = .next { s with scanEn := level }) ∧
    (∀ rest, NoTransfer s → s.pending = plain .resClr :: rest →
      (s.evOffer = [] → s.frame = none → s.txOffer = [] → step s = .next { s with res := [], pending := rest }) ∧
      (s.evOffer ≠ [] ∨ s.frame ≠ none ∨ s.txOffer ≠ [] → step s = .next { s with pending := rest })) ∧
    (∀ level rest, NoTransfer s → s.pending = plain (.scanEn level) :: rest →
      step s = .next { s with scanEn := level, pending := rest })

/-! ### The machine -/

/-- The form of a step: with no transfer possible, the operation the next input carries is run in the state without that
input; on the RX port it is `RX`, whose effect is that of the format the buffer decodes to (log entry 3). A run on the
direct port is decoded at its last byte (log entry 28) and stays through `dc_empty` (log entry 10); a request with payload waits
for it (log entry 11). The RX and the direct port need that no event waits; the pins and the frame interface go on while
one does (log entry 5); only `res_clr` is ignored while a transaction is in progress, a frame request among them, and acts
while a buffer is only partly received (log entries 21 and 28). -/
def Obligations.StepRunsPresentedOperation : Prop :=
  ∀ (s : State) (a : Activity) (rest : List Input), NoTransfer s → s.pending = plain a :: rest →
    (s.evOffer = [] →
      (∀ x, a = .rxByte x true → s.rxBuf.length ≤ 256 →
        step s = exec (.rx (s.rxBuf ++ [x]) s.scanEn) { s with rxBuf := [], pending := rest } ∧
        step s = exec (decodeBuffer s.cfg (s.rxBuf ++ [x]) s.scanEn) { s with rxBuf := [], pending := rest }) ∧
      (∀ x, a = .rxByte x false → s.rxBuf.length ≤ 256 →
        step s = .next { s with rxBuf := s.rxBuf ++ [x], pending := rest }) ∧
      (∀ x, a = .dcByte x true → step s = exec (.decode (s.dcBuf ++ [x])) { s with dcBuf := [], pending := rest }) ∧
      (∀ x, a = .dcByte x false → step s = .next { s with dcBuf := s.dcBuf ++ [x], pending := rest }) ∧
      (a = .dcEmpty → step s = exec (.decode []) { s with pending := rest })) ∧
    (∀ p i, p ≠ .rst → (p = .resClr → s.evOffer = [] ∧ s.frame = none ∧ s.txOffer = []) → decode s.cfg (.pin p) = .ok i → a = pinActivity p →
      step s = exec i { s with pending := rest }) ∧
    (∀ op len, a = .frameReq op false len → s.frame = none → s.txOffer = [] →
      step s = exec (.frame2 op) { s with pending := rest }) ∧
    (∀ x r, a = .fpByte x → s.frame = some r → s.fpBuf.length + 1 = r.len.toNat →
      step s = exec (.framep r.op (s.fpBuf ++ [x])) { s with frame := none, fpBuf := [], pending := rest }) ∧
    (a = .idle ∨ a = .ckPins false none → step s = .next { s with pending := rest })

/-- 10 §3 (the ready wires; that one port does not hold back another is log entry 7): with no transfer possible, inputs whose
port is not ready stay on their wires, in order, and the first other one is taken as if it came first, an `RST` among
them; with none to take the step keeps the state. -/
def Obligations.WaitingInputsAreOvertaken : Prop :=
  ∀ (s : State) (held : List Input), NoTransfer s →
    (∀ x ∈ held, s.takes x = false) →
    (∀ x rest, s.takes x = true →
      step { s with pending := held ++ x :: rest } = step { s with pending := x :: (held ++ rest) }) ∧
    (∀ x : Input, x.rst = true → s.takes x = true) ∧
    step { s with pending := held } = .next { s with pending := held }

/-- 60 §1 (nothing else raises anything, derived; "No errors are fatal to the process"): every operation and every step
answers a next state. That a step answers one where the block only waits or hangs, which 93 U12 and U13 call stuck, is log
entry 7; that an ill-formed term answers one is log entry 18: both are the model's. -/
def Obligations.NothingStopsTheBlock : Prop :=
  (∀ (i : Instr) (s : State), ∃ t, exec i s = .next t) ∧ ∀ s : State, ∃ t, step s = .next t

/-- 10 R22: `RES_LEN` is at most 4 at every boundary: every step keeps it so, `DECODE` makes it a remainder modulo 5 from
any state, and the 3-bit register never holds 5, 6 or 7. -/
def Obligations.ResidueLengthAtMostFour : Prop :=
  (∀ s t : State, s.res.length ≤ 4 → step s = .next t →
    t.res.length ≤ 4 ∧ t.resLen.toNat = t.res.length ∧ t.resLen.toNat ∉ [5, 6, 7]) ∧
  (∀ (c : List Byte) (s t : State), exec (.decode c) s = .next t →
    t.res.length = (s.res.length + c.length) % 5)

/-- 10 §5 (reset values, decision D13): the residue is empty, `ACC` is 0x00, nothing is pending on any port, and the
invariant holds. -/
def Obligations.ResetStateMeetsInvariant : Prop :=
  Inv State.reset ∧ State.reset.resLen = 0 ∧ State.reset.ckSum = 0x00 ∧ State.reset.evValid = false ∧
    State.reset.txValid = false ∧ State.reset.rxLen = 0

/-- 10 §1, 10 §4, 30 §1, 42 §2, 00 §4: every step keeps the invariant: at most four residue bytes, a receive count up to 257
(decision D20, log entry 9), a frame in progress that lacks a payload byte (log entry 11), a boot prefix of at most 56
bytes, and only events that can be produced (samples up to 360 degrees, serial numbers of 16 bytes). -/
def Obligations.EveryStepKeepsInvariant : Prop :=
  ∀ s t : State, Inv s → step s = .next t → Inv t

/-- 20 §6 and 60 §2 (order and delivery): a step never drops, repeats or reorders an event: what has been and will be
delivered only grows at its end, and the delivered part only grows; the one exception is `RST`, which abandons what has
not been transferred. -/
def Obligations.EventsLeaveOnceAndInOrder : Prop :=
  ∀ s t : State, step s = .next t →
    (List.IsPrefix (s.evOut ++ s.evOffer) (t.evOut ++ t.evOffer) ∧ List.IsPrefix s.evOut t.evOut) ∨
    ((∃ x rest, s.nextInput s.pending = some (x, rest) ∧ x.rst = true) ∧ t.evOut = s.evOut ∧ t.evOffer = [])

/-- 10 §3 (the event port): while `ev_ready` = 1 and no `RST` comes every waiting event leaves, in order, one a step, and
nothing else changes (log entries 5 and 6); with `ev_ready` = 0 a single transfer takes exactly the first, and nothing where
none waits; a level on `ev_ready` writes nothing of the block. -/
def Obligations.WaitingEventsDrain : Prop :=
  ∀ s : State,
    (s.evReady = true → s.rstNow = false →
      runSteps s.evOffer.length s = .next { s with evOffer := [], evOut := s.evOut ++ s.evOffer }) ∧
    (s.txCanLeave = false →
      (∀ x q rest, s.evReady = false → s.evOffer = x :: q → s.pending = plain .evTake :: rest →
        step s = .next { s with evOffer := q, evOut := s.evOut ++ [x], pending := rest }) ∧
      (∀ rest, s.evOffer = [] → s.pending = plain .evTake :: rest → step s = .next { s with pending := rest }) ∧
      ∀ level rest, s.evCanLeave = false → s.pending = plain (.evReady level) :: rest →
        step s = .next { s with evReady := level, pending := rest })

/-- 10 §3 and 40 §3 (the TX stream): a step never drops, repeats or reorders a frame byte: what has been and will be sent
only grows at its end, and the sent part only grows; the one exception is `RST`, which abandons a frame partly emitted. -/
def Obligations.FrameBytesLeaveOnceAndInOrder : Prop :=
  ∀ s t : State, step s = .next t →
    (List.IsPrefix (s.txOut ++ s.txOffer) (t.txOut ++ t.txOffer) ∧ List.IsPrefix s.txOut t.txOut) ∨
    ((∃ x rest, s.nextInput s.pending = some (x, rest) ∧ x.rst = true) ∧ t.txOut = s.txOut ∧ t.txOffer = [])

/-- 10 §3 (the TX stream): while `tx_ready` = 1, no `RST` comes and no event leaves, every waiting frame byte leaves with its
`tx_last`, in order, one a step, and nothing else changes (log entries 6 and 11); with `tx_ready` = 0 a single transfer takes
exactly the first, and nothing where none waits; a level on `tx_ready` writes nothing of the block. -/
def Obligations.WaitingFrameBytesDrain : Prop :=
  ∀ s : State, s.evCanLeave = false →
    (s.txReady = true → s.rstNow = false →
      runSteps s.txOffer.length s = .next { s with txOffer := [], txOut := s.txOut ++ s.txOffer }) ∧
    (∀ x q rest, s.txReady = false → s.txOffer = x :: q → s.pending = plain .txTake :: rest →
      step s = .next { s with txOffer := q, txOut := s.txOut ++ [x], pending := rest }) ∧
    (∀ rest, s.txOffer = [] → s.pending = plain .txTake :: rest → step s = .next { s with pending := rest }) ∧
    ∀ level rest, s.txCanLeave = false → s.pending = plain (.txReady level) :: rest →
      step s = .next { s with txReady := level, pending := rest }

/-- 10 §3 (the event port, decision D21; that the byte stays on its wires and lets other ports go on is log entries 5 and 7):
while an event waits and `ev_ready` = 0, a byte of scan or reply data is not taken and nothing is dropped: the step does
what it does without that byte, which stays first. -/
def Obligations.BlockWaitsForEventConsumer : Prop :=
  ∀ (s : State) (x : Byte) (last : Bool) (rest : List Input),
    s.evOffer ≠ [] → s.evReady = false → s.txCanLeave = false →
    ∀ a ∈ [Activity.rxByte x last, .dcByte x last, .dcEmpty],
      s.takes (plain a) = false ∧
      (s.pending = [plain a] → step s = .next s) ∧
      (s.pending = plain a :: rest →
        ∀ t, step { s with pending := rest } = .next t → step s = .next { t with pending := plain a :: t.pending })

/-- 10 §3 (the RX port): the bytes of a buffer, one a step, change nothing of the block until the last, and then are one
`RX` of the whole buffer, of any length from 1 on. -/
def Obligations.RxRunIsOneTransaction : Prop :=
  ∀ (b : List Byte) (rest : List Input) (s : State), b ≠ [] → NoTransfer s → s.evOffer = [] →
    s.rxBuf = [] →
    s.pending = rxRun b ++ rest →
    runSteps b.length s = exec (.rx b s.scanEn) { s with pending := rest }

/-- 10 §1 (who writes what): only the listed operations change the residue, only the listed ones `ACC`; the operations of CKG
neither read nor write the residue, those of CLS and UNP neither read nor write `ACC`. -/
def Obligations.ChecksumAndUnpackerShareNothing : Prop :=
  ∀ (i : Instr) (s t : State), exec i s = .next t →
    (writesResidue i = false → t.res = s.res) ∧
    (writesAcc i = false → t.acc = s.acc) ∧
    (isCkg i = true → ∀ r : List Byte, exec i { s with res := r } = .next { t with res := r }) ∧
    (isCkg i = false → i ≠ .rst → ∀ a : Byte, exec i { s with acc := a } = .next { t with acc := a })

/-! ### Encodings -/

/-- 30 (that a frame is read back is log entry 24): for every configuration and every well-formed operation, of every row, the decoder reads from its encoding that operation with every
operand. -/
def Obligations.DecodeOfEncodeIsIdentity : Prop :=
  ∀ (cfg : Config.Settings) (i : Instr), cfg.ok = true → WellFormed cfg i → decode cfg (encode cfg i) = .ok i

/-- 30 §2 and §4 (the fields tile the 40 bits): every one of the 2^40 unit words decodes to one well-formed row, whose
encoding is that word again. -/
def Obligations.EveryUnitWordHasOneReading : Prop :=
  ∀ (cfg : Config.Settings) (w : UnitWord),
    WellFormed cfg (decodeUnit w) ∧ encode cfg (decodeUnit w) = .unit (unitBytes w) ∧
    ∀ i, WellFormed cfg i → encode cfg i = .unit (unitBytes w) → i = decodeUnit w

/-- 30 §1 (the formats exclude one another): every inbound buffer decodes to one well-formed format, whose encoding holds
the bytes of the buffer. -/
def Obligations.EveryBufferHasOneReading : Prop :=
  ∀ (cfg : Config.Settings) (b : List Byte) (e : Bool),
    WellFormed cfg (decodeBuffer cfg b e) ∧ (encode cfg (decodeBuffer cfg b e)).bytes = b

/-- 30 §1 to §3, 95 (that a frame is read back is log entry 24): words written out from the formats decode to the operations they stand for. -/
def Obligations.WordsOfTheFormatsDecode : Prop :=
  decode Config.standard (.buffer [0xA5, 0x5A, 0x03, 0x00, 0x00, 0x00, 0x06, 0x02, 0x34, 0x12] false) = .ok (.health 2 0x1234) ∧
  decode Config.standard (.buffer [0xA5, 0x5A, 0x05, 0x00, 0x00, 0x40, 0x81] true) = .ok .scanack ∧
  decode Config.standard (.unit [0x01, 0x03, 0x00, 0x04, 0x00]) = .ok (.unitStart 0 1 4) ∧
  decode Config.standard (.unit [0x3E, 0x83, 0x2C, 0x10, 0x27]) = .ok (.unitCont 15 5697 10000) ∧
  decode Config.standard (.unit [0x01, 0x02, 0x00, 0x04, 0x00]) = .ok (.unitErr2 true 0 1 4) ∧
  decode Config.standard (.unit [0x02, 0x01, 0xB5, 0x00, 0x00]) = .ok (.unitErr3 false 0 23168 0) ∧
  decode Config.standard (.frame [0xA5, 0xF0, 0x02, 0x94, 0x02, 0xC1]) = .ok (.framep 0xF0 [0x94, 0x02])

/-- The row of a unit, presented by its 40 bits, is run by the very next step: a chunk of that one unit behind an empty
residue has the effect of the row the word decodes to. -/
def Obligations.PresentedUnitRuns : Prop :=
  ∀ (w : UnitWord) (s : State), s.dcBuf = [] →
    step (s.withFetchWord 40 w.toNat) =
      exec (decodeUnit w) { s with evOffer := [], txOffer := [], frame := none, res := [] }

/-- 60 §2 and 30 §6 (the event port; the codes and the layout are decision D7): the kind codes, the payload fields at their
bits, and every bit above them 0. -/
def Obligations.EventPortLayout : Prop :=
  (∀ (x : Byte) (v : BitVec 16),
    (Event.health x v).kind = 1 ∧ (Event.health x v).bits.extractLsb' 0 8 = x ∧
    (Event.health x v).bits.extractLsb' 8 16 = v ∧ (Event.health x v).bits.toNat < 2 ^ 24) ∧
  (∀ (m f g h : Byte) (serial : List Byte), serial.length = 16 →
    (Event.info m f g h serial).kind = 2 ∧
    (Event.info m f g h serial).bits.extractLsb' 0 8 = m ∧ (Event.info m f g h serial).bits.extractLsb' 8 8 = f ∧
    (Event.info m f g h serial).bits.extractLsb' 16 8 = g ∧ (Event.info m f g h serial).bits.extractLsb' 24 8 = h ∧
    ∀ k, k < 16 → (Event.info m f g h serial).bits.extractLsb' (32 + 8 * k) 8 = serial.getD k 0) ∧
  Event.scanStart.kind = 3 ∧ Event.scanStart.bits = 0 ∧ Event.boot.kind = 4 ∧ Event.boot.bits = 0 ∧
  (∀ x : Sample,
    (Event.data x).kind = 5 ∧ (Event.data x).bits.getLsbD 0 = x.start ∧
    (Event.data x).bits.extractLsb' 1 6 = x.quality ∧ (Event.data x).bits.extractLsb' 7 15 = x.angleQ6 ∧
    (Event.data x).bits.extractLsb' 22 16 = x.distQ2 ∧ (Event.data x).bits.toNat < 2 ^ 38) ∧
  (∀ c : Cause, (Event.error c).kind = 6 ∧ (Event.error c).bits.extractLsb' 0 2 = c.code ∧
    (Event.error c).bits.toNat = c.code.toNat) ∧
  (Cause.code .startPair = 1 ∧ Cause.code .checkBit = 2 ∧ Cause.code .angleRange = 3) ∧
  (ClassCode.code .unrec = 0 ∧ ClassCode.code .health = 1 ∧ ClassCode.code .info = 2 ∧
    ClassCode.code .scanack = 3 ∧ ClassCode.code .boot = 4 ∧ ClassCode.code .scanchunk = 5 ∧
    ClassCode.code .scandrop = 6)
end

