-- ==== Sys2Proof/Laws/Checksum.lean ====
section
/-! SUPPORT. The checksum fold: what it gives on a longer sequence, and that a frame folds to its start value. -/

namespace Sys2Proof.Machine

theorem ck_nil : ck [] = 0 := rfl

/-- The fold from any start value is the start value xor the fold from zero. -/
theorem foldl_ckFn (q : List Byte) (a : Byte) : q.foldl ckFn a = a ^^^ ck q := by
  induction q generalizing a with
  | nil => simp [ck, Config.ckInit]
  | cons x xs ih =>
    have h : ck (x :: xs) = ckFn Config.ckInit x ^^^ ck xs := ih _
    rw [List.foldl_cons, ih, h]
    simp [ckFn, Config.ckInit, BitVec.xor_assoc]

theorem ck_cons (x : Byte) (q : List Byte) : ck (x :: q) = x ^^^ ck q := by
  rw [ck, List.foldl_cons, foldl_ckFn]
  simp [ckFn, Config.ckInit]

theorem ck_append (p q : List Byte) : ck (p ++ q) = ck p ^^^ ck q := by
  rw [ck, List.foldl_append, foldl_ckFn]
  rfl

theorem ck_append_self (q : List Byte) : ck (q ++ [ck q]) = 0 := by
  rw [ck_append, ck_cons, ck_nil]
  simp

end Sys2Proof.Machine
end

