-- ==== Sys2Proof/Laws/Operands.lean ====
section
/-! SUPPORT. Byte order and unit fields: bytes and numbers agree, and the fields of a packed unit word are the fields it
was packed from. -/

namespace Sys2Proof.Machine

theorem leBytes_length (n v : Nat) : (leBytes n v).length = n := by
  induction n generalizing v with
  | zero => rfl
  | succ n ih => simp [leBytes, ih]

theorem leValue_leBytes (n v : Nat) : leValue (leBytes n v) = v % 256 ^ n := by
  induction n generalizing v with
  | zero => simp [leBytes, leValue, Nat.mod_one]
  | succ n ih =>
    simp only [leBytes, leValue, ih, BitVec.toNat_ofNat]
    have h : 256 ^ (n + 1) = 256 * 256 ^ n := by rw [pow_succ, Nat.mul_comm]
    rw [h, Nat.mod_mul]

theorem leBytes_leValue (q : List Byte) : leBytes q.length (leValue q) = q := by
  induction q with
  | nil => rfl
  | cons x xs ih =>
    have h : (x.toNat + 256 * leValue xs) / 256 = leValue xs := by have := x.isLt; omega
    simp only [List.length_cons, leValue, leBytes, h, ih, List.cons.injEq, and_true]
    apply BitVec.eq_of_toNat_eq
    simp only [BitVec.toNat_ofNat]
    have := x.isLt
    omega

theorem leValue_lt (q : List Byte) : leValue q < 256 ^ q.length := by
  induction q with
  | nil => simp [leValue]
  | cons x xs ih =>
    simp only [leValue, List.length_cons, pow_succ]
    have := x.isLt
    omega

theorem slice_whole (q : List Byte) (n : Nat) (h : q.length = n) : slice q 0 n = q := by
  simp [slice, ← h]

theorem unitBytes_length (w : UnitWord) : (unitBytes w).length = 5 := leBytes_length 5 _

theorem unitWord_unitBytes (w : UnitWord) : unitWord (unitBytes w) = w := by
  apply BitVec.eq_of_toNat_eq
  simp only [unitWord, memRead, slice_whole _ _ (unitBytes_length w), BitVec.toNat_ofNat]
  simp only [unitBytes, leValue_leBytes]
  have := w.isLt
  omega

theorem unitBytes_unitWord (u : List Byte) (h : u.length = 5) : unitBytes (unitWord u) = u := by
  have hlt := leValue_lt u
  rw [h] at hlt
  have e : (unitWord u).toNat = leValue u := by
    simp only [unitWord, memRead, slice_whole _ _ h, BitVec.toNat_ofNat]
    omega
  rw [unitBytes, e, ← h, leBytes_leValue]

variable (s ns c : Bool) (q : BitVec 6) (a : BitVec 15) (d : BitVec 16)

theorem packUnit_toNat : (packUnit s ns q c a d).toNat =
    s.toNat + 2 * ns.toNat + 4 * q.toNat + 256 * c.toNat + 512 * a.toNat + 16777216 * d.toNat := by
  have := q.isLt; have := a.isLt; have := d.isLt
  have := Bool.toNat_lt s; have := Bool.toNat_lt ns; have := Bool.toNat_lt c
  simp only [packUnit, BitVec.toNat_ofNat]
  omega

@[simp] theorem flagS_packUnit : flagS (packUnit s ns q c a d) = s := by
  simp only [flagS, BitVec.getLsbD, packUnit_toNat, Nat.testBit_eq_decide_div_mod_eq, pow_zero, Nat.div_one]
  have := q.isLt; have := a.isLt; have := d.isLt
  cases s <;> cases ns <;> cases c <;> simp <;> omega

@[simp] theorem flagNS_packUnit : flagNS (packUnit s ns q c a d) = ns := by
  simp only [flagNS, BitVec.getLsbD, packUnit_toNat, Nat.testBit_eq_decide_div_mod_eq]
  cases s <;> cases ns <;> cases c <;> simp <;> omega

@[simp] theorem flagC_packUnit : flagC (packUnit s ns q c a d) = c := by
  have := q.isLt
  simp only [flagC, BitVec.getLsbD, packUnit_toNat, Nat.testBit_eq_decide_div_mod_eq]
  cases s <;> cases ns <;> cases c <;> simp <;> omega

@[simp] theorem fieldQ_packUnit : fieldQ (packUnit s ns q c a d) = q := by
  apply BitVec.eq_of_toNat_eq
  have := q.isLt
  simp only [fieldQ, BitVec.extractLsb'_toNat, packUnit_toNat, Nat.shiftRight_eq_div_pow]
  cases s <;> cases ns <;> cases c <;> simp <;> omega

@[simp] theorem fieldA_packUnit : fieldA (packUnit s ns q c a d) = a := by
  apply BitVec.eq_of_toNat_eq
  have := q.isLt; have := a.isLt
  simp only [fieldA, BitVec.extractLsb'_toNat, packUnit_toNat, Nat.shiftRight_eq_div_pow]
  cases s <;> cases ns <;> cases c <;> simp <;> omega

@[simp] theorem fieldD_packUnit : fieldD (packUnit s ns q c a d) = d := by
  apply BitVec.eq_of_toNat_eq
  have := q.isLt; have := a.isLt; have := d.isLt
  simp only [fieldD, BitVec.extractLsb'_toNat, packUnit_toNat, Nat.shiftRight_eq_div_pow]
  cases s <;> cases ns <;> cases c <;> simp <;> omega

/-- Every unit word is packed from its own fields: the fields tile the 40 bits (30_encoding.md R69). -/
theorem packUnit_fields (w : UnitWord) :
    packUnit (flagS w) (flagNS w) (fieldQ w) (flagC w) (fieldA w) (fieldD w) = w := by
  apply BitVec.eq_of_toNat_eq
  have hw := w.isLt
  simp only [packUnit_toNat, flagS, flagNS, flagC, fieldQ, fieldA, fieldD, BitVec.extractLsb'_toNat,
    Nat.shiftRight_eq_div_pow, BitVec.getLsbD, Nat.toNat_testBit]
  omega

end Sys2Proof.Machine
end

