-- ==== Sys2Proof/Laws/PerInstr.lean ====
section
/-! SUPPORT. The family RoundTrip, one lemma per operation: the decoder reads back what the encoder writes. -/

namespace Sys2Proof.Laws.RoundTrip

open Machine

/-- Under every configuration the decoder reads from the encoding of a well-formed operation that operation, with all its operands. -/
def Statement (i : Instr) : Prop :=
  ∀ cfg : Config.Settings, cfg.ok = true → WellFormed cfg i → decode cfg (encode cfg i) = .ok i

/-- Decoding the bytes of a unit word is decoding the word. -/
theorem decode_unit (cfg : Config.Settings) (w : UnitWord) : decode cfg (.unit (unitBytes w)) = .ok (decodeUnit w) := by
  simp [decode, unitBytes_length, unitWord_unitBytes, Config.unitBytes]

theorem rx (b : List Byte) (e : Bool) : Statement (.rx b e) := fun _ _ _ => rfl

theorem health (x : Byte) (v : BitVec 16) : Statement (.health x v) := by
  intro cfg _ _
  have h : leValue (leBytes 2 v.toNat) = v.toNat := by rw [leValue_leBytes]; have := v.isLt; omega
  simp [leBytes] at h
  simp [encode, decode, decodeBuffer, classify, healthBuf, Config.preHealth, Config.healthLen, leBytes, healthStatus,
    healthErrorCode, byteAt, memRead, slice, h]

theorem info (m f g w : Byte) (r : List Byte) : Statement (.info m f g w r) := by
  intro cfg hc h
  have h : r.length = 16 := of_decide_eq_true h
  have ht : r.take 16 = r := List.take_of_length_le (by omega)
  simp [encode, decode, decodeBuffer, classify, infoBuf, Config.preInfo, Config.infoLen, Config.healthLen, h, infoModel,
    infoFirmwareMinor, infoFirmwareMajor, infoHardware, infoSerial, byteAt, slice, Config.serialLen, ht]

theorem scanack : Statement .scanack := fun _ _ _ => rfl

theorem boot (r : List Byte) : Statement (.boot r) := by
  intro cfg hc h
  have hc : cfg.bootPrefix.length ≤ 56 := of_decide_eq_true hc
  have h : r.length = 56 - cfg.bootPrefix.length := of_decide_eq_true h
  have hl : (cfg.bootPrefix ++ r).length = 56 := by rw [List.length_append]; omega
  simp only [encode, Sys2Proof.decode, decodeBuffer, classify, bootBuf, hl, Config.bootLen, Config.infoLen,
    Config.healthLen, Config.ackLen]
  simp [bootTail]

/-- A buffer of 256 bytes matches no reply: every reply has another length (30_encoding.md R68). -/
theorem classify_chunk (b : List Byte) (cfg : Config.Settings) (h : b.length = Config.chunkBytes) : classify cfg b = .unrecognized := by
  simp [classify, h, Config.chunkBytes, Config.healthLen, Config.infoLen, Config.ackLen, Config.bootLen]

theorem scanchunk (b : List Byte) : Statement (.scanchunk b) := by
  intro cfg hc h
  have h : b.length = Config.chunkBytes := of_decide_eq_true h
  simp [encode, decode, decodeBuffer, classify_chunk b cfg h, h]

theorem scandrop (b : List Byte) : Statement (.scandrop b) := by
  intro cfg hc h
  have h : b.length = Config.chunkBytes := of_decide_eq_true h
  simp [encode, decode, decodeBuffer, classify_chunk b cfg h, h]

theorem unrec (b : List Byte) : Statement (.unrec b) := by
  intro cfg hc h
  have h : classify cfg b = .unrecognized ∧ b.length ≠ Config.chunkBytes := of_decide_eq_true h
  simp [encode, decode, decodeBuffer, h.1, h.2]

theorem unitStart (q : BitVec 6) (a : BitVec 15) (d : BitVec 16) : Statement (.unitStart q a d) := by
  intro cfg hc h
  have h : angleOk a = true := h
  rw [encode, decode_unit]
  simp [decodeUnit, pairOk, checkOk, h]

theorem unitCont (q : BitVec 6) (a : BitVec 15) (d : BitVec 16) : Statement (.unitCont q a d) := by
  intro cfg hc h
  have h : angleOk a = true := h
  rw [encode, decode_unit]
  simp [decodeUnit, pairOk, checkOk, h]

theorem unitErr1Zeros (q : BitVec 6) (c : Bool) (a : BitVec 15) (d : BitVec 16) :
    Statement (.unitErr1Zeros q c a d) := by
  intro cfg _ _
  rw [encode, decode_unit]
  simp [decodeUnit, pairOk]

theorem unitErr1Ones (q : BitVec 6) (c : Bool) (a : BitVec 15) (d : BitVec 16) :
    Statement (.unitErr1Ones q c a d) := by
  intro cfg _ _
  rw [encode, decode_unit]
  simp [decodeUnit, pairOk]

theorem unitErr2 (s : Bool) (q : BitVec 6) (a : BitVec 15) (d : BitVec 16) : Statement (.unitErr2 s q a d) := by
  intro cfg _ _
  rw [encode, decode_unit]
  simp [decodeUnit, pairOk, checkOk]

theorem unitErr3 (s : Bool) (q : BitVec 6) (a : BitVec 15) (d : BitVec 16) : Statement (.unitErr3 s q a d) := by
  intro cfg hc h
  have h : angleOk a = false := by simpa [WellFormed, wellFormed] using h
  rw [encode, decode_unit]
  simp [decodeUnit, pairOk, checkOk, h]

theorem decode (c : List Byte) : Statement (.decode c) := fun _ _ _ => rfl

theorem frame2 (op : Byte) : Statement (.frame2 op) := by
  intro cfg _ _
  simp [encode, Sys2Proof.decode, decodeFrame, frame2Bytes]

theorem framep (op : Byte) (p : List Byte) : Statement (.framep op p) := by
  intro cfg hc h
  have h : p.length ≤ 255 := of_decide_eq_true h
  have hl : p.length % 256 = p.length := by omega
  have hc : ck (Config.startFlag :: op :: BitVec.ofNat 8 p.length ::
      (p ++ [ck (Config.startFlag :: op :: BitVec.ofNat 8 p.length :: p)])) = Config.ckInit :=
    ck_append_self (Config.startFlag :: op :: BitVec.ofNat 8 p.length :: p)
  simp only [encode, Sys2Proof.decode, framepBytes, framepHead, List.cons_append, decodeFrame]
  rw [if_pos trivial, if_pos (by simp [hl]), if_pos hc]
  simp [hl]

theorem ckclr : Statement .ckclr := fun _ _ _ => rfl

theorem ckbyte (x : Byte) : Statement (.ckbyte x) := fun _ _ _ => rfl

theorem ckread : Statement .ckread := fun _ _ _ => rfl

theorem rst : Statement .rst := fun _ _ _ => rfl

theorem scanen (e : Bool) : Statement (.scanen e) := fun _ _ _ => rfl

theorem resclr : Statement .resclr := fun _ _ _ => rfl

end Sys2Proof.Laws.RoundTrip
end

