-- ==== Sys2Proof/Laws/State.lean ====
section
/-! SUPPORT. What each field of the state reads as after each update, true by unfolding, so that no proof unfolds a record
update. -/

namespace Sys2Proof.Machine

variable (s : State)

@[simp] theorem State.setRes_cfg (r : List Byte) : (s.setRes r).cfg = s.cfg := rfl
@[simp] theorem State.setRes_res (r : List Byte) : (s.setRes r).res = r := rfl
@[simp] theorem State.setRes_acc (r : List Byte) : (s.setRes r).acc = s.acc := rfl
@[simp] theorem State.setRes_scanEn (r : List Byte) : (s.setRes r).scanEn = s.scanEn := rfl
@[simp] theorem State.setRes_evReady (r : List Byte) : (s.setRes r).evReady = s.evReady := rfl
@[simp] theorem State.setRes_txReady (r : List Byte) : (s.setRes r).txReady = s.txReady := rfl
@[simp] theorem State.setRes_rxBuf (r : List Byte) : (s.setRes r).rxBuf = s.rxBuf := rfl
@[simp] theorem State.setRes_dcBuf (r : List Byte) : (s.setRes r).dcBuf = s.dcBuf := rfl
@[simp] theorem State.setRes_frame (r : List Byte) : (s.setRes r).frame = s.frame := rfl
@[simp] theorem State.setRes_fpBuf (r : List Byte) : (s.setRes r).fpBuf = s.fpBuf := rfl
@[simp] theorem State.setRes_evOffer (r : List Byte) : (s.setRes r).evOffer = s.evOffer := rfl
@[simp] theorem State.setRes_txOffer (r : List Byte) : (s.setRes r).txOffer = s.txOffer := rfl
@[simp] theorem State.setRes_clsOut (r : List Byte) : (s.setRes r).clsOut = s.clsOut := rfl
@[simp] theorem State.setRes_evOut (r : List Byte) : (s.setRes r).evOut = s.evOut := rfl
@[simp] theorem State.setRes_txOut (r : List Byte) : (s.setRes r).txOut = s.txOut := rfl
@[simp] theorem State.setRes_sumOut (r : List Byte) : (s.setRes r).sumOut = s.sumOut := rfl
@[simp] theorem State.setRes_pending (r : List Byte) : (s.setRes r).pending = s.pending := rfl

@[simp] theorem State.setAcc_cfg (a : Byte) : (s.setAcc a).cfg = s.cfg := rfl
@[simp] theorem State.setAcc_res (a : Byte) : (s.setAcc a).res = s.res := rfl
@[simp] theorem State.setAcc_acc (a : Byte) : (s.setAcc a).acc = a := rfl
@[simp] theorem State.setAcc_scanEn (a : Byte) : (s.setAcc a).scanEn = s.scanEn := rfl
@[simp] theorem State.setAcc_evReady (a : Byte) : (s.setAcc a).evReady = s.evReady := rfl
@[simp] theorem State.setAcc_txReady (a : Byte) : (s.setAcc a).txReady = s.txReady := rfl
@[simp] theorem State.setAcc_rxBuf (a : Byte) : (s.setAcc a).rxBuf = s.rxBuf := rfl
@[simp] theorem State.setAcc_dcBuf (a : Byte) : (s.setAcc a).dcBuf = s.dcBuf := rfl
@[simp] theorem State.setAcc_frame (a : Byte) : (s.setAcc a).frame = s.frame := rfl
@[simp] theorem State.setAcc_fpBuf (a : Byte) : (s.setAcc a).fpBuf = s.fpBuf := rfl
@[simp] theorem State.setAcc_evOffer (a : Byte) : (s.setAcc a).evOffer = s.evOffer := rfl
@[simp] theorem State.setAcc_txOffer (a : Byte) : (s.setAcc a).txOffer = s.txOffer := rfl
@[simp] theorem State.setAcc_clsOut (a : Byte) : (s.setAcc a).clsOut = s.clsOut := rfl
@[simp] theorem State.setAcc_evOut (a : Byte) : (s.setAcc a).evOut = s.evOut := rfl
@[simp] theorem State.setAcc_txOut (a : Byte) : (s.setAcc a).txOut = s.txOut := rfl
@[simp] theorem State.setAcc_sumOut (a : Byte) : (s.setAcc a).sumOut = s.sumOut := rfl
@[simp] theorem State.setAcc_pending (a : Byte) : (s.setAcc a).pending = s.pending := rfl

@[simp] theorem State.emit_cfg (e : Event) : (s.emit e).cfg = s.cfg := rfl
@[simp] theorem State.emit_res (e : Event) : (s.emit e).res = s.res := rfl
@[simp] theorem State.emit_acc (e : Event) : (s.emit e).acc = s.acc := rfl
@[simp] theorem State.emit_scanEn (e : Event) : (s.emit e).scanEn = s.scanEn := rfl
@[simp] theorem State.emit_evReady (e : Event) : (s.emit e).evReady = s.evReady := rfl
@[simp] theorem State.emit_txReady (e : Event) : (s.emit e).txReady = s.txReady := rfl
@[simp] theorem State.emit_rxBuf (e : Event) : (s.emit e).rxBuf = s.rxBuf := rfl
@[simp] theorem State.emit_dcBuf (e : Event) : (s.emit e).dcBuf = s.dcBuf := rfl
@[simp] theorem State.emit_frame (e : Event) : (s.emit e).frame = s.frame := rfl
@[simp] theorem State.emit_fpBuf (e : Event) : (s.emit e).fpBuf = s.fpBuf := rfl
@[simp] theorem State.emit_evOffer (e : Event) : (s.emit e).evOffer = s.evOffer ++ [e] := rfl
@[simp] theorem State.emit_txOffer (e : Event) : (s.emit e).txOffer = s.txOffer := rfl
@[simp] theorem State.emit_clsOut (e : Event) : (s.emit e).clsOut = s.clsOut := rfl
@[simp] theorem State.emit_evOut (e : Event) : (s.emit e).evOut = s.evOut := rfl
@[simp] theorem State.emit_txOut (e : Event) : (s.emit e).txOut = s.txOut := rfl
@[simp] theorem State.emit_sumOut (e : Event) : (s.emit e).sumOut = s.sumOut := rfl
@[simp] theorem State.emit_pending (e : Event) : (s.emit e).pending = s.pending := rfl

@[simp] theorem State.showClass_cfg (c : ClassCode) : (s.showClass c).cfg = s.cfg := rfl
@[simp] theorem State.showClass_res (c : ClassCode) : (s.showClass c).res = s.res := rfl
@[simp] theorem State.showClass_acc (c : ClassCode) : (s.showClass c).acc = s.acc := rfl
@[simp] theorem State.showClass_scanEn (c : ClassCode) : (s.showClass c).scanEn = s.scanEn := rfl
@[simp] theorem State.showClass_evReady (c : ClassCode) : (s.showClass c).evReady = s.evReady := rfl
@[simp] theorem State.showClass_txReady (c : ClassCode) : (s.showClass c).txReady = s.txReady := rfl
@[simp] theorem State.showClass_rxBuf (c : ClassCode) : (s.showClass c).rxBuf = s.rxBuf := rfl
@[simp] theorem State.showClass_dcBuf (c : ClassCode) : (s.showClass c).dcBuf = s.dcBuf := rfl
@[simp] theorem State.showClass_frame (c : ClassCode) : (s.showClass c).frame = s.frame := rfl
@[simp] theorem State.showClass_fpBuf (c : ClassCode) : (s.showClass c).fpBuf = s.fpBuf := rfl
@[simp] theorem State.showClass_evOffer (c : ClassCode) : (s.showClass c).evOffer = s.evOffer := rfl
@[simp] theorem State.showClass_txOffer (c : ClassCode) : (s.showClass c).txOffer = s.txOffer := rfl
@[simp] theorem State.showClass_clsOut (c : ClassCode) : (s.showClass c).clsOut = s.clsOut ++ [c] := rfl
@[simp] theorem State.showClass_evOut (c : ClassCode) : (s.showClass c).evOut = s.evOut := rfl
@[simp] theorem State.showClass_txOut (c : ClassCode) : (s.showClass c).txOut = s.txOut := rfl
@[simp] theorem State.showClass_sumOut (c : ClassCode) : (s.showClass c).sumOut = s.sumOut := rfl
@[simp] theorem State.showClass_pending (c : ClassCode) : (s.showClass c).pending = s.pending := rfl

@[simp] theorem State.sendFrame_cfg (f : List Byte) : (s.sendFrame f).cfg = s.cfg := rfl
@[simp] theorem State.sendFrame_res (f : List Byte) : (s.sendFrame f).res = s.res := rfl
@[simp] theorem State.sendFrame_acc (f : List Byte) : (s.sendFrame f).acc = s.acc := rfl
@[simp] theorem State.sendFrame_scanEn (f : List Byte) : (s.sendFrame f).scanEn = s.scanEn := rfl
@[simp] theorem State.sendFrame_evReady (f : List Byte) : (s.sendFrame f).evReady = s.evReady := rfl
@[simp] theorem State.sendFrame_txReady (f : List Byte) : (s.sendFrame f).txReady = s.txReady := rfl
@[simp] theorem State.sendFrame_rxBuf (f : List Byte) : (s.sendFrame f).rxBuf = s.rxBuf := rfl
@[simp] theorem State.sendFrame_dcBuf (f : List Byte) : (s.sendFrame f).dcBuf = s.dcBuf := rfl
@[simp] theorem State.sendFrame_frame (f : List Byte) : (s.sendFrame f).frame = s.frame := rfl
@[simp] theorem State.sendFrame_fpBuf (f : List Byte) : (s.sendFrame f).fpBuf = s.fpBuf := rfl
@[simp] theorem State.sendFrame_evOffer (f : List Byte) : (s.sendFrame f).evOffer = s.evOffer := rfl
@[simp] theorem State.sendFrame_txOffer (f : List Byte) : (s.sendFrame f).txOffer = s.txOffer ++ txBytes f := rfl
@[simp] theorem State.sendFrame_clsOut (f : List Byte) : (s.sendFrame f).clsOut = s.clsOut := rfl
@[simp] theorem State.sendFrame_evOut (f : List Byte) : (s.sendFrame f).evOut = s.evOut := rfl
@[simp] theorem State.sendFrame_txOut (f : List Byte) : (s.sendFrame f).txOut = s.txOut := rfl
@[simp] theorem State.sendFrame_sumOut (f : List Byte) : (s.sendFrame f).sumOut = s.sumOut := rfl
@[simp] theorem State.sendFrame_pending (f : List Byte) : (s.sendFrame f).pending = s.pending := rfl

@[simp] theorem State.returnSum_cfg : s.returnSum.cfg = s.cfg := rfl
@[simp] theorem State.returnSum_res : s.returnSum.res = s.res := rfl
@[simp] theorem State.returnSum_acc : s.returnSum.acc = s.acc := rfl
@[simp] theorem State.returnSum_scanEn : s.returnSum.scanEn = s.scanEn := rfl
@[simp] theorem State.returnSum_evReady : s.returnSum.evReady = s.evReady := rfl
@[simp] theorem State.returnSum_txReady : s.returnSum.txReady = s.txReady := rfl
@[simp] theorem State.returnSum_rxBuf : s.returnSum.rxBuf = s.rxBuf := rfl
@[simp] theorem State.returnSum_dcBuf : s.returnSum.dcBuf = s.dcBuf := rfl
@[simp] theorem State.returnSum_frame : s.returnSum.frame = s.frame := rfl
@[simp] theorem State.returnSum_fpBuf : s.returnSum.fpBuf = s.fpBuf := rfl
@[simp] theorem State.returnSum_evOffer : s.returnSum.evOffer = s.evOffer := rfl
@[simp] theorem State.returnSum_txOffer : s.returnSum.txOffer = s.txOffer := rfl
@[simp] theorem State.returnSum_clsOut : s.returnSum.clsOut = s.clsOut := rfl
@[simp] theorem State.returnSum_evOut : s.returnSum.evOut = s.evOut := rfl
@[simp] theorem State.returnSum_txOut : s.returnSum.txOut = s.txOut := rfl
@[simp] theorem State.returnSum_sumOut : s.returnSum.sumOut = s.sumOut ++ [s.acc] := rfl
@[simp] theorem State.returnSum_pending : s.returnSum.pending = s.pending := rfl

@[simp] theorem State.raiseParseError_cfg (c : Cause) : (s.raiseParseError c).cfg = s.cfg := rfl
@[simp] theorem State.raiseParseError_res (c : Cause) : (s.raiseParseError c).res = s.res := rfl
@[simp] theorem State.raiseParseError_acc (c : Cause) : (s.raiseParseError c).acc = s.acc := rfl
@[simp] theorem State.raiseParseError_scanEn (c : Cause) : (s.raiseParseError c).scanEn = s.scanEn := rfl
@[simp] theorem State.raiseParseError_evReady (c : Cause) : (s.raiseParseError c).evReady = s.evReady := rfl
@[simp] theorem State.raiseParseError_txReady (c : Cause) : (s.raiseParseError c).txReady = s.txReady := rfl
@[simp] theorem State.raiseParseError_rxBuf (c : Cause) : (s.raiseParseError c).rxBuf = s.rxBuf := rfl
@[simp] theorem State.raiseParseError_dcBuf (c : Cause) : (s.raiseParseError c).dcBuf = s.dcBuf := rfl
@[simp] theorem State.raiseParseError_frame (c : Cause) : (s.raiseParseError c).frame = s.frame := rfl
@[simp] theorem State.raiseParseError_fpBuf (c : Cause) : (s.raiseParseError c).fpBuf = s.fpBuf := rfl
@[simp] theorem State.raiseParseError_evOffer (c : Cause) : (s.raiseParseError c).evOffer = s.evOffer ++ [.error c] := rfl
@[simp] theorem State.raiseParseError_txOffer (c : Cause) : (s.raiseParseError c).txOffer = s.txOffer := rfl
@[simp] theorem State.raiseParseError_clsOut (c : Cause) : (s.raiseParseError c).clsOut = s.clsOut := rfl
@[simp] theorem State.raiseParseError_evOut (c : Cause) : (s.raiseParseError c).evOut = s.evOut := rfl
@[simp] theorem State.raiseParseError_txOut (c : Cause) : (s.raiseParseError c).txOut = s.txOut := rfl
@[simp] theorem State.raiseParseError_sumOut (c : Cause) : (s.raiseParseError c).sumOut = s.sumOut := rfl
@[simp] theorem State.raiseParseError_pending (c : Cause) : (s.raiseParseError c).pending = s.pending := rfl

@[simp] theorem State.driveScanEn_cfg (b : Bool) : (s.driveScanEn b).cfg = s.cfg := rfl
@[simp] theorem State.driveScanEn_res (b : Bool) : (s.driveScanEn b).res = s.res := rfl
@[simp] theorem State.driveScanEn_acc (b : Bool) : (s.driveScanEn b).acc = s.acc := rfl
@[simp] theorem State.driveScanEn_scanEn (b : Bool) : (s.driveScanEn b).scanEn = b := rfl
@[simp] theorem State.driveScanEn_evReady (b : Bool) : (s.driveScanEn b).evReady = s.evReady := rfl
@[simp] theorem State.driveScanEn_txReady (b : Bool) : (s.driveScanEn b).txReady = s.txReady := rfl
@[simp] theorem State.driveScanEn_rxBuf (b : Bool) : (s.driveScanEn b).rxBuf = s.rxBuf := rfl
@[simp] theorem State.driveScanEn_dcBuf (b : Bool) : (s.driveScanEn b).dcBuf = s.dcBuf := rfl
@[simp] theorem State.driveScanEn_frame (b : Bool) : (s.driveScanEn b).frame = s.frame := rfl
@[simp] theorem State.driveScanEn_fpBuf (b : Bool) : (s.driveScanEn b).fpBuf = s.fpBuf := rfl
@[simp] theorem State.driveScanEn_evOffer (b : Bool) : (s.driveScanEn b).evOffer = s.evOffer := rfl
@[simp] theorem State.driveScanEn_txOffer (b : Bool) : (s.driveScanEn b).txOffer = s.txOffer := rfl
@[simp] theorem State.driveScanEn_clsOut (b : Bool) : (s.driveScanEn b).clsOut = s.clsOut := rfl
@[simp] theorem State.driveScanEn_evOut (b : Bool) : (s.driveScanEn b).evOut = s.evOut := rfl
@[simp] theorem State.driveScanEn_txOut (b : Bool) : (s.driveScanEn b).txOut = s.txOut := rfl
@[simp] theorem State.driveScanEn_sumOut (b : Bool) : (s.driveScanEn b).sumOut = s.sumOut := rfl
@[simp] theorem State.driveScanEn_pending (b : Bool) : (s.driveScanEn b).pending = s.pending := rfl

@[simp] theorem State.transferEvent_cfg : s.transferEvent.cfg = s.cfg := rfl
@[simp] theorem State.transferEvent_res : s.transferEvent.res = s.res := rfl
@[simp] theorem State.transferEvent_acc : s.transferEvent.acc = s.acc := rfl
@[simp] theorem State.transferEvent_scanEn : s.transferEvent.scanEn = s.scanEn := rfl
@[simp] theorem State.transferEvent_evReady : s.transferEvent.evReady = s.evReady := rfl
@[simp] theorem State.transferEvent_txReady : s.transferEvent.txReady = s.txReady := rfl
@[simp] theorem State.transferEvent_rxBuf : s.transferEvent.rxBuf = s.rxBuf := rfl
@[simp] theorem State.transferEvent_dcBuf : s.transferEvent.dcBuf = s.dcBuf := rfl
@[simp] theorem State.transferEvent_frame : s.transferEvent.frame = s.frame := rfl
@[simp] theorem State.transferEvent_fpBuf : s.transferEvent.fpBuf = s.fpBuf := rfl
@[simp] theorem State.transferEvent_evOffer : s.transferEvent.evOffer = s.evOffer.tail := rfl
@[simp] theorem State.transferEvent_txOffer : s.transferEvent.txOffer = s.txOffer := rfl
@[simp] theorem State.transferEvent_clsOut : s.transferEvent.clsOut = s.clsOut := rfl
@[simp] theorem State.transferEvent_evOut : s.transferEvent.evOut = s.evOut ++ s.evOffer.take 1 := rfl
@[simp] theorem State.transferEvent_txOut : s.transferEvent.txOut = s.txOut := rfl
@[simp] theorem State.transferEvent_sumOut : s.transferEvent.sumOut = s.sumOut := rfl
@[simp] theorem State.transferEvent_pending : s.transferEvent.pending = s.pending := rfl

@[simp] theorem State.transferTx_cfg : s.transferTx.cfg = s.cfg := rfl
@[simp] theorem State.transferTx_res : s.transferTx.res = s.res := rfl
@[simp] theorem State.transferTx_acc : s.transferTx.acc = s.acc := rfl
@[simp] theorem State.transferTx_scanEn : s.transferTx.scanEn = s.scanEn := rfl
@[simp] theorem State.transferTx_evReady : s.transferTx.evReady = s.evReady := rfl
@[simp] theorem State.transferTx_txReady : s.transferTx.txReady = s.txReady := rfl
@[simp] theorem State.transferTx_rxBuf : s.transferTx.rxBuf = s.rxBuf := rfl
@[simp] theorem State.transferTx_dcBuf : s.transferTx.dcBuf = s.dcBuf := rfl
@[simp] theorem State.transferTx_frame : s.transferTx.frame = s.frame := rfl
@[simp] theorem State.transferTx_fpBuf : s.transferTx.fpBuf = s.fpBuf := rfl
@[simp] theorem State.transferTx_evOffer : s.transferTx.evOffer = s.evOffer := rfl
@[simp] theorem State.transferTx_txOffer : s.transferTx.txOffer = s.txOffer.tail := rfl
@[simp] theorem State.transferTx_clsOut : s.transferTx.clsOut = s.clsOut := rfl
@[simp] theorem State.transferTx_evOut : s.transferTx.evOut = s.evOut := rfl
@[simp] theorem State.transferTx_txOut : s.transferTx.txOut = s.txOut ++ s.txOffer.take 1 := rfl
@[simp] theorem State.transferTx_sumOut : s.transferTx.sumOut = s.sumOut := rfl
@[simp] theorem State.transferTx_pending : s.transferTx.pending = s.pending := rfl

@[simp] theorem State.resetBlock_cfg : s.resetBlock.cfg = s.cfg := rfl
@[simp] theorem State.resetBlock_res : s.resetBlock.res = [] := rfl
@[simp] theorem State.resetBlock_acc : s.resetBlock.acc = 0 := rfl
@[simp] theorem State.resetBlock_scanEn : s.resetBlock.scanEn = s.scanEn := rfl
@[simp] theorem State.resetBlock_evReady : s.resetBlock.evReady = s.evReady := rfl
@[simp] theorem State.resetBlock_txReady : s.resetBlock.txReady = s.txReady := rfl
@[simp] theorem State.resetBlock_rxBuf : s.resetBlock.rxBuf = [] := rfl
@[simp] theorem State.resetBlock_dcBuf : s.resetBlock.dcBuf = [] := rfl
@[simp] theorem State.resetBlock_frame : s.resetBlock.frame = none := rfl
@[simp] theorem State.resetBlock_fpBuf : s.resetBlock.fpBuf = [] := rfl
@[simp] theorem State.resetBlock_evOffer : s.resetBlock.evOffer = [] := rfl
@[simp] theorem State.resetBlock_txOffer : s.resetBlock.txOffer = [] := rfl
@[simp] theorem State.resetBlock_clsOut : s.resetBlock.clsOut = s.clsOut := rfl
@[simp] theorem State.resetBlock_evOut : s.resetBlock.evOut = s.evOut := rfl
@[simp] theorem State.resetBlock_txOut : s.resetBlock.txOut = s.txOut := rfl
@[simp] theorem State.resetBlock_sumOut : s.resetBlock.sumOut = s.sumOut := rfl
@[simp] theorem State.resetBlock_pending : s.resetBlock.pending = s.pending := rfl

end Sys2Proof.Machine
end

