-- ==== Sys2Proof/Laws/Unpacker.lean ====
section
/-! SUPPORT. What DECODE does, once: the loop over the cursor gives the events of the units of the combined buffer, and
nothing else of the state changes but the residue. -/

namespace Sys2Proof.Machine

open Safety

theorem emit_append (s : State) (es : List Event) (e : Event) :
    State.emit e { s with evOffer := es } = { s with evOffer := es ++ [e] } := rfl

/-- Delivering a result appends the one event it stands for. -/
theorem deliver_eq (r : Except Cause Sample) (s : State) :
    s.deliver r = { s with evOffer := s.evOffer ++ [match r with | .ok x => Event.data x | .error c => .error c] } := by
  cases r <;> rfl

theorem unitsOf_short (q : List Byte) (h : q.length < 5) : unitsOf q = [] := by
  match q, h with
  | [], _ => rfl
  | [_], _ => rfl
  | [_, _], _ => rfl
  | [_, _, _], _ => rfl
  | [_, _, _, _], _ => rfl

/-- The units of a sequence that holds one: the first five bytes, then the units of the rest. -/
theorem unitsOf_long (q : List Byte) (h : 5 ≤ q.length) :
    unitsOf q = unitWord (q.take 5) :: unitsOf (q.drop 5) := by
  match q, h with
  | _ :: _ :: _ :: _ :: _ :: _, _ => simp [unitsOf]

theorem unitsOf_length (q : List Byte) : (unitsOf q).length = q.length / 5 := by
  induction hn : q.length / 5 generalizing q with
  | zero => rw [unitsOf_short q (by omega)]; rfl
  | succ n ih =>
    rw [unitsOf_long q (by omega), List.length_cons, ih (q.drop 5) (by simp; omega)]

theorem unitLoop_abort (buf : List Byte) (k : Nat) (cs : Cursor × State) (h : cs.1.abort = true) :
    unitLoop buf k cs = cs := by
  induction k with
  | zero => rfl
  | succ k ih => simp [unitLoop, unitStep, h, ih]

/-- The loop from a cursor that has not aborted, over the units that remain. -/
theorem unitLoop_events (buf : List Byte) (k : Nat) (c : Cursor) (s : State) (ha : c.abort = false)
    (hk : k = (buf.drop c.pos).length / 5) :
    (unitLoop buf k (c, s)).2 = { s with evOffer := s.evOffer ++ eventsOf (unitsOf (buf.drop c.pos)) } := by
  induction k generalizing c s with
  | zero => simp [unitLoop, unitsOf_short (buf.drop c.pos) (by omega), eventsOf]
  | succ k ih =>
    rw [unitsOf_long (buf.drop c.pos) (by omega), unitLoop, unitStep, ha, List.drop_drop]
    simp only [slice, Config.unitBytes, eventsOf]
    cases hr : unitResult (unitWord ((buf.drop c.pos).take 5)) with
    | ok x =>
      simp only [Cursor.advance, State.deliver, Config.unitBytes, Bool.false_eq_true, if_false]
      rw [List.length_drop] at hk
      have h := ih { pos := c.pos + 5, abort := c.abort, unit := unitWord ((buf.drop c.pos).take 5) }
        (s.emit (.data x)) ha (by simp only [List.length_drop]; omega)
      simpa [State.emit] using h
    | error e =>
      simp only [Cursor.advance, State.deliver, Bool.false_eq_true, if_false]
      rw [unitLoop_abort _ _ _ rfl]
      rfl

/-- All that DECODE does (42_scan_unpacker.md R147): the residue becomes the trailing bytes of the combined buffer, and
the events of its units follow those already produced. -/
theorem runChunk_eq (c : List Byte) (s : State) :
    s.runChunk c = { s with res := trailing (s.res ++ c)
                            evOffer := s.evOffer ++ eventsOf (unitsOf (s.res ++ c)) } := by
  have h := unitLoop_events (s.res ++ c) (unitCount (s.res ++ c)) Cursor.cleared
    (s.setRes (trailing (s.res ++ c))) rfl rfl
  simpa [State.runChunk, Cursor.cleared, State.setRes] using h

theorem trailing_length (q : List Byte) : (trailing q).length = q.length % 5 := by
  simp only [trailing, unitCount, Config.unitBytes, List.length_drop]
  omega

theorem trailing_short (q : List Byte) (h : q.length < 5) : trailing q = q := by
  have : q.length / 5 = 0 := by omega
  simp [trailing, unitCount, Config.unitBytes, this]

end Sys2Proof.Machine
end

