-- ==== Sys2Proof/Laws/Step.lean ====
section
/-! SUPPORT. What one step and one operation can do, each said once. -/

namespace Sys2Proof.Machine

open Safety

theorem txBytes_snoc (h : List Byte) (k : Byte) :
    txBytes (h ++ [k]) = h.map (fun x => { data := x, last := false }) ++ [{ data := k, last := true }] := by
  induction h with
  | nil => rfl
  | cons x xs ih =>
    cases xs with
    | nil => rfl
    | cons y ys => simp only [List.cons_append, txBytes] at ih ⊢; rw [ih]; simp

/-- `RX` has the effect of the format its buffer decodes to. -/
theorem execRx_decodeBuffer (b : List Byte) (e : Bool) (s : State) :
    exec (.rx b e) s = exec (decodeBuffer s.cfg b e) s := by
  simp only [decodeBuffer, exec, execRx]
  cases classify s.cfg b <;> simp
  split_ifs <;> rfl

/-- What `nextInput` answers: the first input that is taken, and all others in order. -/
theorem nextInput_skip (s : State) (held : List Input) (x : Input) (rest : List Input)
    (hh : ∀ y ∈ held, s.takes y = false) (hx : s.takes x = true) :
    s.nextInput (held ++ x :: rest) = some (x, held ++ rest) := by
  induction held with
  | nil => simp [State.nextInput, hx]
  | cons y ys ih =>
    have hy := hh y (by simp)
    simp [State.nextInput, hy, ih fun z hz => hh z (List.mem_cons_of_mem _ hz)]

/-- With no input that is taken, `nextInput` answers none. -/
theorem nextInput_none (s : State) (held : List Input) (hh : ∀ y ∈ held, s.takes y = false) :
    s.nextInput held = none := by
  induction held with
  | nil => rfl
  | cons y ys ih =>
    simp [State.nextInput, hh y (by simp), ih fun z hz => hh z (List.mem_cons_of_mem _ hz)]

/-- An input that `nextInput` answers stands behind inputs that are not taken, and nothing is lost. -/
theorem nextInput_some (s : State) (l : List Input) (x : Input) (r : List Input) (h : s.nextInput l = some (x, r)) :
    s.takes x = true ∧ ∃ held rest, l = held ++ x :: rest ∧ r = held ++ rest ∧ ∀ y ∈ held, s.takes y = false := by
  induction l generalizing r with
  | nil => simp [State.nextInput] at h
  | cons y ys ih =>
    rw [State.nextInput] at h
    split_ifs at h with hy
    · obtain ⟨rfl, rfl⟩ : y = x ∧ ys = r := by simpa using h
      exact ⟨hy, [], _, rfl, rfl, by simp⟩
    · obtain ⟨p, hp, hq⟩ := Option.map_eq_some_iff.1 h
      obtain ⟨rfl, rfl⟩ : p.1 = x ∧ y :: p.2 = r := by simpa using hq
      obtain ⟨ht, held, rest, e1, e2, hh⟩ := ih p.2 hp
      refine ⟨ht, y :: held, rest, by rw [e1]; rfl, by rw [e2]; rfl, ?_⟩
      intro z hz
      rcases List.mem_cons.1 hz with rfl | hz
      · simpa using hy
      · exact hh z hz

/-- With no transfer possible, what the block turns to is the next input that it takes. -/
theorem move_takeInput (s : State) (h : NoTransfer s) : s.move = s.takeInput := by
  simp [State.move, h.events, h.bytes]

/-- With no transfer possible, a taken input at the head is what the block turns to. -/
theorem move_taken (s : State) (h : NoTransfer s) (x : Input) (rest : List Input) (hp : s.pending = x :: rest)
    (hx : s.takes x = true) : s.move = State.accept x { s with pending := rest } := by
  rw [move_takeInput s h]
  simp [State.takeInput, hp, State.nextInput, hx]

/-- With no transfer possible, a step with a taken input at the head is what that input turns it to. -/
theorem step_taken (s : State) (h : NoTransfer s) (x : Input) (rest : List Input) (hp : s.pending = x :: rest)
    (hx : s.takes x = true) :
    step s = match State.accept x { s with pending := rest } with | .quiet t => .next t | .run i t => exec i t :=
  congrArg (fun m : Move => match m with | .quiet t => Host.Outcome.next t | .run i t => exec i t)
    (move_taken s h x rest hp hx)

/-- An `RST` at the head is taken whatever else is possible. -/
theorem move_rst (s : State) (x : Input) (rest : List Input) (hp : s.pending = x :: rest) (hx : x.rst = true) :
    s.move = .run .rst (State.driveLevels x.act { s with pending := rest }) := by
  simp [State.move, State.rstNow, hp, hx, State.takeInput, State.nextInput, State.takes, State.accept]

/-- What the block turns to is one of these four. -/
theorem move_cases (s : State) :
    (s.rstNow = false ∧ s.evReady = true ∧ s.evOffer ≠ [] ∧ s.move = .quiet s.transferEvent) ∨
    (s.rstNow = false ∧ s.evCanLeave = false ∧ s.txReady = true ∧ s.txOffer ≠ [] ∧
      s.move = .quiet s.transferTx) ∨
    (s.nextInput s.pending = none ∧ s.move = .quiet s) ∨
    (∃ x rest, s.nextInput s.pending = some (x, rest) ∧ s.move = State.accept x { s with pending := rest }) := by
  have hin : s.move = s.takeInput →
      (s.nextInput s.pending = none ∧ s.move = .quiet s) ∨
      (∃ x rest, s.nextInput s.pending = some (x, rest) ∧ s.move = State.accept x { s with pending := rest }) := by
    intro h
    cases hn : s.nextInput s.pending with
    | none => exact .inl ⟨rfl, by simp [h, State.takeInput, hn]⟩
    | some p => exact .inr ⟨p.1, p.2, rfl, by simp [h, State.takeInput, hn]⟩
  by_cases hr : s.rstNow = true
  · exact .inr (.inr (hin (by simp [State.move, hr])))
  · have hr : s.rstNow = false := by simpa using hr
    by_cases he : s.evCanLeave = true
    · have he' : s.evReady = true ∧ s.evOffer ≠ [] := by simpa [State.evCanLeave, State.evValid] using he
      exact .inl ⟨hr, he'.1, he'.2, by simp [State.move, hr, he]⟩
    · have he : s.evCanLeave = false := by simpa using he
      by_cases ht : s.txCanLeave = true
      · have ht' : s.txReady = true ∧ s.txOffer ≠ [] := by simpa [State.txCanLeave, State.txValid] using ht
        exact .inr (.inl ⟨hr, he, ht'.1, ht'.2, by simp [State.move, hr, he, ht]⟩)
      · exact .inr (.inr (hin (move_takeInput s ⟨he, by simpa using ht⟩)))

/-- No operation touches the configuration, what the environment has been given on the ready and valid ports, what it
drives there, or what it will present. -/
theorem exec_keeps_environment (i : Instr) (s t : State) (h : exec i s = .next t) :
    t.pending = s.pending ∧ t.evOut = s.evOut ∧ t.txOut = s.txOut ∧ t.evReady = s.evReady ∧
      t.txReady = s.txReady ∧ t.cfg = s.cfg := by
  have hrx : ∀ b e, exec (.rx b e) s = .next t → exec (decodeBuffer s.cfg b e) s = .next t := fun b e h =>
    (execRx_decodeBuffer b e s) ▸ h
  cases i
  case rx b e =>
    have h := hrx b e h
    unfold decodeBuffer at h
    cases hc : classify s.cfg b <;> simp only [hc] at h
    case unrecognized =>
      split_ifs at h <;>
        (simp only [exec, execScanchunk, execScandrop, execUnrec, execDecode, Host.Outcome.next.injEq] at h
         subst h
         simp [runChunk_eq])
    all_goals
      simp only [exec, execHealth, execInfo, execScanack, execBoot, Host.Outcome.next.injEq] at h
      subst h
      simp
  all_goals
    simp only [exec, execHealth, execInfo, execScanack, execBoot, execScanchunk, execScandrop, execUnrec,
      execUnitStart, execUnitCont, execUnitErr1Zeros, execUnitErr1Ones, execUnitErr2, execUnitErr3, execDecode,
      execFrame2, execFramep, execCkclr, execCkbyte, execCkread, execRst, execScanen, execResclr, deliver_eq,
      Host.Outcome.next.injEq] at h
    subst h
    simp [runChunk_eq]

/-- No operation reads what the environment will present. -/
theorem exec_reads_no_pending (i : Instr) (s t : State) (l : List Input) (h : exec i s = .next t) :
    exec i { s with pending := l } = .next { t with pending := l } := by
  cases i
  case rx b e =>
    rw [execRx_decodeBuffer] at h ⊢
    simp only [decodeBuffer] at h ⊢
    cases hc : classify s.cfg b <;> simp only [hc] at h ⊢
    case unrecognized =>
      split_ifs at h ⊢ <;>
        (simp only [exec, execScanchunk, execScandrop, execUnrec, execDecode, Host.Outcome.next.injEq] at h ⊢
         subst h
         simp [runChunk_eq, State.showClass])
    all_goals
      simp only [exec, execHealth, execInfo, execScanack, execBoot, Host.Outcome.next.injEq] at h ⊢
      subst h
      rfl
  all_goals
    simp only [exec, execHealth, execInfo, execScanack, execBoot, execScanchunk, execScandrop, execUnrec,
      execUnitStart, execUnitCont, execUnitErr1Zeros, execUnitErr1Ones, execUnitErr2, execUnitErr3, execDecode,
      execFrame2, execFramep, execCkclr, execCkbyte, execCkread, execRst, execScanen, execResclr, deliver_eq,
      Host.Outcome.next.injEq] at h ⊢
    subst h
    simp [runChunk_eq, State.setAcc, State.setRes, State.emit, State.showClass, State.sendFrame, State.returnSum,
      State.resetBlock, State.driveScanEn]

end Sys2Proof.Machine
end

