-- ==== Sys2Proof/Tests/Slice0.lean ====
section
/-! SUPPORT. Tests: ill-formed terms refused, words written out from 30_encoding.md, vectors of 95_test_vectors.md, and a
witness for every statement with hypotheses. -/

namespace Sys2Proof.Tests

open Machine Safety

/-- What a field reads as after an operation or a step that answers a next state. -/
def after {α : Type} (f : State → α) : Host.Outcome State Fault Refusal → Option α
  | .next t => some (f t)
  | .fault _ => none
  | .refused _ => none

/-- The reset state with a residue and an accumulator. -/
def st (res : List Byte) (acc : Byte) : State := { State.reset with res := res, acc := acc }

/-- The reset state with one input waiting. -/
def withInput (a : Activity) : State := { State.reset with pending := [plain a] }

/-- A run of equal bytes. -/
def rep (n : Nat) (x : Byte) : List Byte := List.replicate n x

@[simp] theorem rep_length (n : Nat) (x : Byte) : (rep n x).length = n := List.length_replicate

/-! ### Ill-formed terms -/

theorem test_ill_formed_info : wellFormed Config.standard (.info 0 0 0 0 [1, 2, 3]) = false := by decide
theorem test_ill_formed_boot : wellFormed Config.standard (.boot []) = false := by decide
theorem test_ill_formed_scanchunk : wellFormed Config.standard (.scanchunk [0]) = false := by decide
theorem test_ill_formed_scandrop : wellFormed Config.standard (.scandrop []) = false := by decide
theorem test_ill_formed_unrec : wellFormed Config.standard (.unrec [0xA5, 0x5A, 0x05, 0x00, 0x00, 0x40, 0x81]) = false := by decide
theorem test_ill_formed_unit_start : wellFormed Config.standard (.unitStart 0 23041 0) = false := by decide
theorem test_ill_formed_unit_cont : wellFormed Config.standard (.unitCont 0 23041 0) = false := by decide
theorem test_ill_formed_unit_err3 : wellFormed Config.standard (.unitErr3 true 0 23040 0) = false := by decide
theorem test_ill_formed_framep : wellFormed Config.standard (.framep 0 (rep 256 0)) = false := by
  simp [wellFormed]

/-! ### Words written out from the formats -/

/-- V22. -/
theorem test_decode_health :
    decode Config.standard (.buffer [0xA5, 0x5A, 0x03, 0, 0, 0, 0x06, 0x02, 0x34, 0x12] true) = .ok (.health 2 0x1234) := by rfl
/-- V27. -/
theorem test_decode_info :
    decode Config.standard (.buffer [0xA5, 0x5A, 0x14, 0, 0, 0, 0x04, 0x18, 0x1D, 0x01, 0x07, 0x10, 0x1F, 0x2E, 0x3D, 0x4C, 0x5B,
        0x6A, 0x79, 0x88, 0x97, 0xA6, 0xB5, 0xC4, 0xD3, 0xE2, 0xF1] false) =
      .ok (.info 0x18 0x1D 0x01 0x07 [0x10, 0x1F, 0x2E, 0x3D, 0x4C, 0x5B, 0x6A, 0x79, 0x88, 0x97, 0xA6, 0xB5, 0xC4,
        0xD3, 0xE2, 0xF1]) := by rfl
/-- V29. -/
theorem test_decode_scanack : decode Config.standard (.buffer [0xA5, 0x5A, 0x05, 0, 0, 0x40, 0x81] false) = .ok .scanack := by rfl
/-- V29a. -/
theorem test_decode_unrec :
    decode Config.standard (.buffer [0xA5, 0x5A, 0x05, 0, 0, 0x40, 0x80] false) =
      .ok (.unrec [0xA5, 0x5A, 0x05, 0, 0, 0x40, 0x80]) := by rfl
/-- V31. -/
theorem test_decode_boot :
    decode Config.standard (.buffer ([0x52, 0x50, 0x20, 0x4C, 0x49, 0x44, 0x41, 0x52] ++ rep 48 0) false) =
      .ok (.boot (rep 48 0)) := by rfl
/-- V32: the seven-byte spelling. -/
theorem test_decode_boot_seven_bytes :
    classify Config.standard ([0x52, 0x50, 0x4C, 0x49, 0x44, 0x41, 0x52] ++ rep 49 0x20) = .unrecognized := by decide
/-- 00 R8: another configured prefix. -/
theorem test_decode_boot_configured :
    classify { bootPrefix := [0x52, 0x50, 0x4C, 0x49, 0x44, 0x41, 0x52] }
      ([0x52, 0x50, 0x4C, 0x49, 0x44, 0x41, 0x52] ++ rep 49 0x20) = .bootAnnouncement := by decide
/-- V34, V35. -/
theorem test_decode_chunks :
    decodeBuffer Config.standard (rep 256 0) true = .scanchunk (rep 256 0) ∧
      decodeBuffer Config.standard (rep 256 0) false = .scandrop (rep 256 0) := by
  have h := Laws.RoundTrip.classify_chunk (rep 256 0) Config.standard (by simp [Config.chunkBytes])
  simp only [decodeBuffer, h]
  simp [Config.chunkBytes]
/-- V52 and V58, from the bits of 30_encoding.md R69. -/
theorem test_decode_unit_cont :
    decodeUnit (unitWord [0xFE, 0x01, 0xB4, 0xFF, 0xFF]) = .unitCont 63 23040 65535 ∧
      decodeUnit (unitWord [0x56, 0x55, 0x55, 0x34, 0x12]) = .unitCont 21 10922 4660 := by decide
/-- V50 and V60. -/
theorem test_decode_unit_start :
    decodeUnit (unitWord [0x01, 0x03, 0x00, 0x04, 0x00]) = .unitStart 0 1 4 ∧
      decodeUnit (unitWord [0xFD, 0x01, 0x80, 0xFF, 0xFF]) = .unitStart 63 16384 65535 := by decide
/-- V62 to V64, V66. -/
theorem test_decode_unit_err1 :
    decodeUnit (unitWord [0x00, 0x01, 0x00, 0x00, 0x00]) = .unitErr1Zeros 0 true 0 0 ∧
      decodeUnit (unitWord [0x00, 0x00, 0xFF, 0x00, 0x00]) = .unitErr1Zeros 0 false 32640 0 ∧
      decodeUnit (unitWord [0x03, 0x01, 0x00, 0x00, 0x00]) = .unitErr1Ones 0 true 0 0 := by decide
/-- V67, V70. -/
theorem test_decode_unit_err2 :
    decodeUnit (unitWord [0x01, 0x02, 0x00, 0x04, 0x00]) = .unitErr2 true 0 1 4 ∧
      decodeUnit (unitWord [0x02, 0x02, 0xFF, 0xFF, 0xFF]) = .unitErr2 false 0 32641 65535 := by decide
/-- V71, V73. -/
theorem test_decode_unit_err3 :
    decodeUnit (unitWord [0x01, 0x03, 0xB4, 0x00, 0x00]) = .unitErr3 true 0 23041 0 ∧
      decodeUnit (unitWord [0x02, 0x01, 0xB5, 0x00, 0x00]) = .unitErr3 false 0 23168 0 := by decide
/-- V1, V9. -/
theorem test_decode_frames :
    decode Config.standard (.frame [0xA5, 0x25]) = .ok (.frame2 0x25) ∧
      decode Config.standard (.frame [0xA5, 0xF0, 0x02, 0x94, 0x02, 0xC1]) = .ok (.framep 0xF0 [0x94, 0x02]) := ⟨rfl, rfl⟩
/-- Objects that are no operation are rejected by name. -/
theorem test_decode_rejects :
    decode Config.standard (.unit [0x01]) = .error .unitLength ∧ decode Config.standard (.frame [0x5A, 0x25]) = .error .frameStart ∧
      decode Config.standard (.frame [0xA5, 0xF0, 0x03, 0x94, 0x02, 0xC1]) = .error .frameLength ∧
      decode Config.standard (.frame [0xA5, 0xF0, 0x02, 0x94, 0x02, 0xC0]) = .error .frameChecksum := ⟨rfl, rfl, rfl, rfl⟩
/-- 42 R152: `ENC(0, 47, 5760, 4000)`. -/
theorem test_enc : encUnit false 47 5760 4000 = [0xBE, 0x01, 0x2D, 0xA0, 0x0F] := by decide
/-- Rows of the table as words, first byte least significant. -/
theorem test_table_words :
    decodeTableWord 40 0x0004000301 = some (.unitStart 0 1 4) ∧
      decodeTableWord 56 0x0600000003_5AA5 = some (.health 0 0) ∧
      decodeTableWord 56 0x8140000005_5AA5 = some .scanack ∧
      decodeTableWord 16 0x25A5 = some (.frame2 0x25) := ⟨rfl, rfl, rfl, rfl⟩

/-! ### Vectors, one step or one operation each -/

/-- V10. -/
theorem test_framep_bytes :
    framepBytes 0x82 [0, 0, 0, 0, 0] = [0xA5, 0x82, 0x05, 0, 0, 0, 0, 0, 0x22] := by decide
/-- V12. -/
theorem test_framep_long :
    framepBytes 0x5A [1, 2, 3, 4, 5, 6, 7, 8] = [0xA5, 0x5A, 0x08, 1, 2, 3, 4, 5, 6, 7, 8, 0xFF] := by decide
/-- V1: `tx_last` with the second byte. -/
theorem test_frame2 :
    after State.txOffer (exec (.frame2 0x25) State.reset) = some [⟨0xA5, false⟩, ⟨0x25, true⟩] := by decide
/-- P5 step 10: `FRAMEP` leaves `ACC`. -/
theorem test_framep_keeps_acc : after State.acc (exec (.framep 0x82 [0]) (st [] 0xC1)) = some 0xC1 := by decide
/-- 40 R92, R93 examples. -/
theorem test_ckclr : after State.acc (exec .ckclr (st [] 0x5C)) = some 0x00 := by decide
theorem test_ckbyte : after State.acc (exec (.ckbyte 0xF0) (st [] 0xA5)) = some 0x55 := by decide
/-- V14. -/
theorem test_ckread : after State.sumOut (exec .ckread State.reset) = some [0x00] := by decide
/-- V22, event port bits. -/
theorem test_health_bits : (Event.health 2 0x1234).bits = 0x123402 := by decide
/-- V52, V53, event port bits. -/
theorem test_data_bits :
    (Event.data ⟨false, 63, 23040, 65535⟩).bits = 0x3FFFED007E ∧
      (Event.data ⟨false, 47, 5760, 4000⟩).bits = 0x3E80B405E := by decide
/-- V27, rendering. -/
theorem test_render_serial :
    renderSerial [0x10, 0x1F, 0x2E, 0xF1] = ['1', '0', '1', 'f', '2', 'e', 'f', '1'] := by decide
/-- V112: the acknowledgement does not clear the residue. -/
theorem test_scanack_keeps_residue : after State.res (exec .scanack (st [0xBE, 0x01] 0)) = some [0xBE, 0x01] := by
  decide
/-- V30. -/
theorem test_boot : after State.evOffer (exec (.boot []) State.reset) = some [.boot] := by decide
/-- V40: a valid unit on the RX port is dropped. -/
theorem test_rx_short :
    after (fun t => (t.clsOut, t.evOffer, t.res)) (exec (.rx [0x01, 0x03, 0x00, 0x04, 0x00] true) (st [7] 0)) =
      some ([.unrec], [], [7]) := by decide
/-- V35. -/
theorem test_scandrop :
    after (fun t => (t.clsOut, t.res)) (exec (.scandrop []) (st [0xCE] 0)) = some ([.scandrop], [0xCE]) := by decide
/-- V94: a unit completed across two chunks. -/
theorem test_decode_across :
    after (fun t => (t.evOffer, t.res)) (exec (.decode [0x2C, 0x10, 0x27]) (st [0x3E, 0x83] 0)) =
      some ([.data ⟨false, 15, 5697, 10000⟩], []) := by decide
/-- V98: the abort, and the residue of the whole chunk. -/
theorem test_decode_abort :
    after (fun t => (t.evOffer, t.res))
      (exec (.decode [0x51, 0x01, 0x0A, 0xA0, 0x0F, 0x56, 0x80, 0x0A, 0xA4, 0x0F, 0x5A, 0x01, 0x0B, 0xA8, 0x0F,
        0x5E, 0x81]) State.reset) =
      some ([.data ⟨true, 20, 1280, 4000⟩, .error .checkBit], [0x5E, 0x81]) := by decide
/-- P6 step 2a: a stale residue misframes. -/
theorem test_decode_stale :
    after State.evOffer
      (exec (.decode [0x0D, 0x81, 0x01, 0x98, 0x01, 0x12, 0x01, 0x02, 0x9C, 0x01]) (st [0x0A, 0x01, 0x01] 0)) =
      some [.data ⟨false, 2, 128, 33037⟩, .error .checkBit] := by decide
/-- The streaming realisation on V98. -/
theorem test_stream_abort :
    streamChunk [] [0x51, 0x01, 0x0A, 0xA0, 0x0F, 0x56, 0x80, 0x0A, 0xA4, 0x0F, 0x5A, 0x01, 0x0B, 0xA8, 0x0F,
        0x5E, 0x81] =
      ⟨[0x5E, 0x81], true, [.data ⟨true, 20, 1280, 4000⟩, .error .checkBit]⟩ := by decide
/-- V64, V69, V72. -/
theorem test_unit_causes :
    unitResult (unitWord [0xFF, 0xFF, 0xFF, 0xFF, 0xFF]) = .error .startPair ∧
      unitResult (unitWord [0x01, 0x00, 0xFF, 0x00, 0x00]) = .error .checkBit ∧
      unitResult (unitWord [0x02, 0xFF, 0xFF, 0x00, 0x00]) = .error .angleRange := ⟨rfl, rfl, rfl⟩
/-- V110. -/
theorem test_rst :
    after (fun t => (t.res, t.acc)) (exec .rst (st [0xBE, 0x01, 0x2D] 0x5A)) = some ([], 0x00) := by decide
/-- V111. -/
theorem test_resclr :
    after (fun t => (t.res, t.acc)) (exec .resclr (st [0xBE, 0x01, 0x2D] 0x5A)) = some ([], 0x5A) := by decide
/-- 43 R173, 93 U14: `res_clr` during a frame request is ignored: payload lacking, then bytes on the TX stream. -/
theorem test_step_resclr_in_frame :
    after State.res (step { st [0x9A, 0xB9] 0 with
        frame := some ⟨0xF0, 2⟩, pending := [{ rst := false, act := .resClr }] }) = some [0x9A, 0xB9] ∧
      after State.res (step { st [0x9A, 0xB9] 0 with
        txReady := false, txOffer := [⟨0x25, true⟩], pending := [{ rst := false, act := .resClr }] }) =
        some [0x9A, 0xB9] := by decide
/-- V113: a level on `scan_en` keeps the residue. -/
theorem test_scanen :
    after (fun t => (t.res, t.scanEn)) (exec (.scanen true) (st [0xBE, 0x01] 0)) = some ([0xBE, 0x01], true) := by
  decide
/-- 43 R171: `rst` wins over a byte at the same moment. -/
theorem test_step_rst_wins :
    after (fun t => (t.acc, t.rxBuf))
      (step { st [] 0x5A with pending := [{ rst := true, act := .rxByte 0xA5 false }] }) = some (0x00, []) := by decide
/-- 43 R171: `rst` wins over an event that could be transferred, and loses it. -/
theorem test_step_rst_loses_event :
    after (fun t => (t.evOffer, t.evOut))
      (step { State.reset with evOffer := [.boot], pending := [{ rst := true, act := .evTake }] }) = some ([], []) := by
  decide
/-- 43 R171: a byte that waits does not hold `rst` back. -/
theorem test_step_rst_behind_byte :
    after (fun t => (t.evOffer, t.pending))
      (step { State.reset with evReady := false, evOffer := [.boot],
                               pending := [plain (.rxByte 7 true), { rst := true, act := .idle }] }) =
      some ([], [plain (.rxByte 7 true)]) := by decide
/-- 40 R92: `ck_clr` and `ck_valid` in the same cycle. -/
theorem test_step_clear_and_fold :
    after State.acc (step { withInput (.ckPins true (some 0x3C)) with acc := 0x5A }) = some 0x3C := by decide
/-- 10 R30: the last payload byte makes the frame (V9), and `fp_ready` falls. -/
theorem test_step_payload :
    after (fun t => (t.txOffer.map TxByte.data, t.fpReady))
      (step { withInput (.fpByte 0x02) with frame := some ⟨0xF0, 2⟩, fpBuf := [0x94] }) =
      some ([0xA5, 0xF0, 0x02, 0x94, 0x02, 0xC1], false) := by decide
/-- 70 R223: an excess payload byte waits for the next request. -/
theorem test_step_excess_payload :
    after (fun t => (t.txOffer.map TxByte.data, t.pending))
      (step { State.reset with pending := [plain (.fpByte 9), plain (.frameReq 0x25 false 0)] }) =
      some ([0xA5, 0x25], [plain (.fpByte 9)]) := by decide
/-- 10 R29: a waiting event is transferred. -/
theorem test_step_event :
    after (fun t => (t.evOffer, t.evOut)) (step { State.reset with evOffer := [.boot] }) = some ([], [.boot]) := by
  decide
/-- 60 R201: an idle block keeps its state. -/
theorem test_step_idle : after id (step (st [1] 2)) = some (st [1] 2) := by decide
/-- 10 R27: the last byte of a buffer makes it one `RX`. -/
theorem test_step_rx_last :
    after (fun t => (t.clsOut, t.evOffer, t.rxBuf))
      (step { withInput (.rxByte 0x81 true) with rxBuf := [0xA5, 0x5A, 0x05, 0x00, 0x00, 0x40] }) =
      some ([.scanack], [.scanStart], []) := by decide
/-- A table row is run by the next step: V67. -/
theorem test_step_table_unit :
    after State.evOffer (step (State.reset.withFetchWord 40 0x0004000201)) = some [.error .checkBit] := by decide
theorem test_step_table_ack :
    after State.clsOut (step (State.reset.withFetchWord 56 0x8140000005_5AA5)) = some [.scanack] := by decide
theorem test_step_table_frame :
    after State.txOffer (step (State.reset.withFetchWord 16 0x25A5)) = some [⟨0xA5, false⟩, ⟨0x25, true⟩] := by decide

/-! ### Witnesses -/

/-- States that meet `NoTransfer` with an input waiting: for every activity. -/
theorem witness_no_transfer (a : Activity) : NoTransfer (withInput a) ∧ (withInput a).pending = plain a :: [] :=
  ⟨⟨rfl, rfl⟩, rfl⟩
theorem witness_CkbyteFoldsOneByte :
    NoTransfer (withInput (.ckPins false (some 0xF0))) ∧
      (withInput (.ckPins false (some 0xF0))).pending = plain (.ckPins false (some 0xF0)) :: [] := witness_no_transfer _
theorem witness_CkclrClearsFirst :
    NoTransfer (withInput (.ckPins true (some 0x3C))) ∧
      (withInput (.ckPins true (some 0x3C))).pending = plain (.ckPins true (some 0x3C)) :: [] := witness_no_transfer _
theorem witness_FrameWithPayload : (rep 255 0).length ≤ 255 ∧ ([] : List Byte).length ≤ 255 := by
  simp
theorem witness_SentFrameFoldsToZero : ([0x94, 0x02] : List Byte).length ≤ 255 := by decide
theorem witness_ChecksumFoldLaws : List.Perm [(0x12 : Byte), 0x34] [0x34, 0x12] ∧ 7 < 8 := by decide

/-- A state with a frame in progress and some payload. -/
def framing (len : Byte) (p : List Byte) (x : List Input) : State :=
  { State.reset with frame := some ⟨0xF0, len⟩, fpBuf := p, pending := x }
theorem witness_FrameRequestsTakeTheirPayload :
    NoTransfer (withInput (.frameReq 0xF0 true 255)) ∧ (withInput (.frameReq 0xF0 true 255)).frame = none ∧
      (255 : Byte) ≠ 0 ∧ (framing 2 [0x94] [plain (.fpByte 2)]).frame = some ⟨0xF0, 2⟩ ∧
      (framing 2 [0x94] [plain (.fpByte 2)]).pending = plain (.fpByte 2) :: [] ∧
      NoTransfer (framing 2 [0x94] [plain (.fpByte 2)]) ∧ (framing 2 [0x94] []).pending = [] ∧
      (framing 2 [0x94] []).fpBuf.length + 1 = (2 : Byte).toNat ∧
      (framing 255 [0x94] []).fpBuf.length + 1 < (255 : Byte).toNat :=
  ⟨⟨rfl, rfl⟩, rfl, by decide, rfl, rfl, ⟨rfl, rfl⟩, rfl, rfl, by decide⟩
/-- A state with an event waiting and a consumer that is not ready. -/
def blocked (x : Input) : State :=
  { State.reset with evReady := false, txReady := false, evOffer := [.boot], pending := [x] }
/-- A state with a frame byte waiting and a consumer that is not ready. -/
def sending (x : List Input) : State :=
  { State.reset with txReady := false, txOffer := [⟨0x25, true⟩], pending := x }
/-- A frame byte waits; then payload bytes lack; then an excess byte. -/
theorem witness_FrameRequestsTakeTheirPayload_wait :
    NoTransfer { blocked (plain (.frameReq 1 true 2)) with txOffer := [⟨0x25, true⟩] } ∧
      ({ blocked (plain (.frameReq 1 true 2)) with txOffer := [⟨0x25, true⟩] } : State).txOffer ≠ [] ∧
      (framing 2 [0x94] [plain (.frameReq 1 true 2)]).frame ≠ none ∧
      (framing 2 [0x94] [plain (.frameReq 1 true 2)]).pending = plain (.frameReq 1 true 2) :: [] ∧
      (withInput (.fpByte 9)).fpReady = false ∧ (withInput (.fpByte 9)).pending = plain (.fpByte 9) :: [] ∧
      step { withInput (.fpByte 9) with pending := [] } = .next { withInput (.fpByte 9) with pending := [] } :=
  ⟨⟨rfl, rfl⟩, by decide, by decide, rfl, rfl, rfl, rfl⟩
/-- 20 R53: a checksum byte is folded while an event waits for its consumer. -/
theorem test_step_fold_while_event_waits :
    after (fun t => (t.acc, t.evOffer)) (step (blocked (plain (.ckPins false (some 0xF0))))) = some (0xF0, [.boot]) := by
  decide
theorem witness_FrameRunTakesExactlyItsPayload :
    (rep 255 7).length ≤ 255 ∧
      NoTransfer { State.reset with pending := payloadRun (rep 255 7 ++ [9]) ++ plain (.frameReq 0xF0 true 255) :: [] } ∧
      NoTransfer { State.reset with pending := plain (.frameReq 0xF0 true 0) :: payloadRun ([] ++ [9]) ++ [] } ∧
      State.reset.frame = none ∧ State.reset.txOffer = [] := ⟨by simp, ⟨rfl, rfl⟩, ⟨rfl, rfl⟩, rfl, rfl⟩
theorem witness_ClassifyReadsLengthAndPrefix :
    Config.standard.bootPrefix.length ≤ 8 ∧
    ([0xA5, 0x5A, 3, 0, 0, 0, 6, 1, 2, 3] : List Byte).length = ([0xA5, 0x5A, 3, 0, 0, 0, 6, 1, 7, 9] : List Byte).length ∧
      ([0xA5, 0x5A, 3, 0, 0, 0, 6, 1, 2, 3] : List Byte).take 8 = ([0xA5, 0x5A, 3, 0, 0, 0, 6, 1, 7, 9] : List Byte).take 8 := by
  decide
theorem witness_RxPerformsExactlyOneOperation_step :
    NoTransfer { withInput (.rxByte 0x81 true) with rxBuf := rep 256 0 } ∧
      ({ withInput (.rxByte 0x81 true) with rxBuf := rep 256 0 } : State).evOffer = [] ∧
      ({ withInput (.rxByte 0x81 true) with rxBuf := rep 256 0 } : State).rxBuf.length ≤ 256 :=
  ⟨⟨rfl, rfl⟩, rfl, by simp⟩
theorem witness_RxPerformsExactlyOneOperation_error :
    ∃ t new, exec (.rx (rep 256 0) true) State.reset = .next t ∧
      t.evOffer = State.reset.evOffer ++ new ∧ Event.error .startPair ∈ new := by
  refine ⟨(State.reset.showClass .scanchunk).runChunk (rep 256 0), [.error .startPair], ?_, ?_, by simp⟩
  · rw [execRx_decodeBuffer, show State.reset.cfg = Config.standard from rfl, test_decode_chunks.1]
    rfl
  · rw [runChunk_eq, unitsOf_long _ (by simp [State.reset])]
    have h : unitResult (unitWord [0, 0, 0, 0, 0]) = .error .startPair := rfl
    have ht : (rep 256 0).take 5 = [0, 0, 0, 0, 0] := rfl
    simp only [State.reset, State.showClass, List.nil_append, ht, eventsOf, h]
theorem witness_HealthBufferReported :
    ([0xA5, 0x5A, 3, 0, 0, 0, 6, 2, 0x34, 0x12] : List Byte).length = 10 ∧
      ([0xA5, 0x5A, 3, 0, 0, 0, 6, 2, 0x34, 0x12] : List Byte).take 7 = [0xA5, 0x5A, 0x03, 0x00, 0x00, 0x00, 0x06] ∧
      ([0xA5, 0x5A, 3, 0, 0, 0, 7, 2, 0x34, 0x12] : List Byte).length = 10 ∧
      ([0xA5, 0x5A, 3, 0, 0, 0, 7, 2, 0x34, 0x12] : List Byte).take 7 ≠ [0xA5, 0x5A, 0x03, 0x00, 0x00, 0x00, 0x06] ∧
      ([0xA5, 0x5A, 3, 0, 0, 0, 6, 0, 0, 0, 0] : List Byte).length = 11 := by decide
theorem witness_InfoBufferReported :
    (Config.preInfo ++ rep 20 0).length = 27 ∧
      (Config.preInfo ++ rep 20 0).take 7 = [0xA5, 0x5A, 0x14, 0x00, 0x00, 0x00, 0x04] ∧
      (rep 27 0).length = 27 ∧
      (rep 27 0).take 7 ≠ [0xA5, 0x5A, 0x14, 0x00, 0x00, 0x00, 0x04] ∧
      (rep 16 0).length = 16 := by decide
theorem witness_ScanackReported :
    (rep 7 0).length = 7 ∧
      rep 7 0 ≠ [0xA5, 0x5A, 0x05, 0x00, 0x00, 0x40, 0x81] ∧
      (rep 249 0).length = 249 := by refine ⟨by decide, by decide, by simp⟩
theorem witness_BootReported :
    State.reset.cfg.bootPrefix.length + (rep 48 0).length = 56 ∧ State.reset.cfg = Config.standard ∧
      (rep 48 0).length = 48 ∧ (rep 49 0x20).length = 49 ∧ (rep 56 0).length = 56 ∧
      (rep 56 0).take State.reset.cfg.bootPrefix.length ≠ State.reset.cfg.bootPrefix := by decide
theorem witness_ScanchunkIsDecode :
    (rep 256 0xA5).length = 256 ∧ (st [1, 2, 3, 4] 0).res.length ≤ 4 ∧
      (st [1, 2, 3, 4] 0).res.length = 4 ∧ (st [] 0).res.length ≤ 4 := by
  refine ⟨by simp, by decide, by decide, by decide⟩
theorem witness_DroppedBuffersOnlyShowTheirClass :
    (rep 256 0).length = 256 ∧ (rep 255 0).length ∉ [7, 10, 27, 56, 256] ∧
      ([] : List Byte).length ∉ [7, 10, 27, 56, 256] ∧
      (rep 10 0).length ≠ 256 ∧ classify Config.standard (rep 10 0) = .unrecognized := by
  refine ⟨by simp, by simp, by decide, by decide, by decide⟩
theorem witness_RepliesIndependentOfScan : classify Config.standard [0xA5, 0x5A, 0x05, 0x00, 0x00, 0x40, 0x81] ≠ .unrecognized := by
  decide
theorem witness_UnitFieldsFromBytes :
    (⟨true, 0, 1, 4⟩ : Sample).angleQ6 = fieldA (unitWord [0x01, 0x03, 0x00, 0x04, 0x00]) ∧
      (⟨true, 0, 1, 4⟩ : Sample).distQ2 = fieldD (unitWord [0x01, 0x03, 0x00, 0x04, 0x00]) := by decide
theorem witness_EqualStartPairAlwaysFails :
    flagS (unitWord [0x03, 0x01, 0, 0, 0]) = flagNS (unitWord [0x03, 0x01, 0, 0, 0]) ∧
      flagS (unitWord [0x00, 0x01, 0, 0, 0]) = flagNS (unitWord [0x00, 0x01, 0, 0, 0]) := by decide
theorem witness_ClearCheckBitAlwaysFails :
    (0x02 : Byte).toNat % 2 = 0 ∧ ((0x01 : Byte).toNat % 4 = 1 ∨ (0x01 : Byte).toNat % 4 = 2) := by decide
theorem witness_AngleAboveFullCircleFails :
    flagS (unitWord [0x01, 0x03, 0xB4, 0, 0]) ≠ flagNS (unitWord [0x01, 0x03, 0xB4, 0, 0]) ∧
      flagC (unitWord [0x01, 0x03, 0xB4, 0, 0]) = true ∧ 23040 < (23041 : BitVec 15).toNat ∧
      (fieldA (unitWord [0x01, 0x01, 0xB4, 0, 0])).toNat ≤ 23040 := by decide
theorem witness_EveryQualityAndDistanceAccepted :
    (23040 : BitVec 15).toNat ≤ 23040 ∧
      flagS (unitWord [0x01, 0x03, 0, 4, 0]) = flagS (unitWord [0xFD, 0x03, 0, 9, 9]) ∧
      flagNS (unitWord [0x01, 0x03, 0, 4, 0]) = flagNS (unitWord [0xFD, 0x03, 0, 9, 9]) ∧
      flagC (unitWord [0x01, 0x03, 0, 4, 0]) = flagC (unitWord [0xFD, 0x03, 0, 9, 9]) ∧
      fieldA (unitWord [0x01, 0x03, 0, 4, 0]) = fieldA (unitWord [0xFD, 0x03, 0, 9, 9]) := by decide
theorem witness_FixtureEncoderInvertsUnit :
    ([0xBE, 0x01, 0x2D, 0xA0, 0x0F] : List Byte).length = 5 ∧
      unitResult (unitWord [0xBE, 0x01, 0x2D, 0xA0, 0x0F]) = .ok ⟨false, 47, 5760, 4000⟩ := ⟨rfl, rfl⟩
theorem witness_UnitWordsPartitioned :
    (0x0004000201 : UnitWord).toNat % 4 = 1 ∧ (0x0004000201 : UnitWord).toNat / 256 % 2 = 0 ∧
      (0x00B40302 : UnitWord).toNat % 4 = 2 ∧ (0x00B40302 : UnitWord).toNat / 256 % 2 = 1 ∧
      23040 < (0x00B40302 : UnitWord).toNat / 512 % 32768 ∧ (0x03 : UnitWord).toNat % 4 = 3 := by decide
theorem witness_DecodeOneChunk :
    (st [1, 2, 3, 4] 0).res.length ≤ 4 ∧ ((st [1] 0).res ++ [2, 3, 4]).length < 5 ∧
      ((st [1] 0).res ++ [2, 3, 4, 5]).length % 5 = 0 ∧ (rep 256 0).length = 256 ∧ (st [] 0).res = [] := by
  refine ⟨by decide, by decide, by decide, by simp, rfl⟩
theorem witness_ResidueCommittedWhateverFails :
    ([0, 0, 0, 0, 0, 7, 8] : List Byte).length = ([1, 1, 1, 0, 0, 7, 8] : List Byte).length ∧
      ([0, 0, 0, 0, 0, 7, 8] : List Byte).drop (7 - 4) = ([1, 1, 1, 0, 0, 7, 8] : List Byte).drop (7 - 4) := by decide

/-- A stream of bytes 0x01 holds well-formed units only. -/
theorem units_of_ones (n : Nat) : ∀ w ∈ unitsOf (rep n 1), unitGood w = true := by
  induction n using Nat.strong_induction_on with
  | _ n ih =>
    by_cases h : n < 5
    · rw [unitsOf_short (rep n 1) (by simpa using h)]
      simp
    · rw [unitsOf_long _ (by simp; omega)]
      have ht : (rep n (1 : Byte)).take 5 = [1, 1, 1, 1, 1] := by
        rw [rep, List.take_replicate, Nat.min_eq_left (by omega)]; rfl
      have hg : unitGood (unitWord [1, 1, 1, 1, 1]) = true := rfl
      intro w hw
      rw [ht, rep, List.drop_replicate] at hw
      rcases List.mem_cons.1 hw with rfl | hw
      · exact hg
      · exact ih (n - 5) (by omega) w hw
theorem witness_FiveChunksCarryWholeUnits :
    State.reset.res = [] ∧ (rep 256 1).length = 256 ∧
      ∀ w ∈ unitsOf (rep 256 1 ++ rep 256 1 ++ rep 256 1 ++ rep 256 1 ++
        rep 256 1), unitGood w = true := by
  refine ⟨rfl, by simp, ?_⟩
  simp only [rep, List.replicate_append_replicate]
  exact units_of_ones _
/-- V98: unit 1 is the first malformed one. -/
theorem witness_ParseErrorEntry :
    1 < ((st [0x51] 0).res ++ [0x01, 0x0A, 0xA0, 0x0F, 0x56, 0x80, 0x0A, 0xA4, 0x0F, 0x5E]).length / 5 ∧
      (∀ j, (h : j < [(⟨true, 20, 1280, 4000⟩ : Sample)].length) →
        unitResult (unitWord ((((st [0x51] 0).res ++ [0x01, 0x0A, 0xA0, 0x0F, 0x56, 0x80, 0x0A, 0xA4, 0x0F,
          0x5E]).drop (5 * j)).take 5)) = .ok [(⟨true, 20, 1280, 4000⟩ : Sample)][j]) ∧
      unitResult (unitWord ((((st [0x51] 0).res ++ [0x01, 0x0A, 0xA0, 0x0F, 0x56, 0x80, 0x0A, 0xA4, 0x0F,
        0x5E]).drop (5 * 1)).take 5)) = .error .checkBit ∧ (st [0x51] 0).evReady = true ∧
      (st [0x51] 0).rstNow = false := by
  refine ⟨by decide, ?_, rfl, rfl, rfl⟩
  intro j h
  have hj : j = 0 := by simpa using h
  subst hj
  rfl
/-- P2 run B: the chunk cut 3 + 7. -/
theorem witness_ChunkingInvariance :
    (st [] 0).res.length ≤ 4 ∧
      ∀ w ∈ unitsOf ((st [] 0).res ++ [[0x29, 0x01, 0x05], [0xD0, 0x07, 0x2E, 0x81, 0x05, 0xD4, 0x07]].flatten),
        unitGood w = true :=
  ⟨by decide, fun w hw => by
    have h : w = unitWord [0x29, 0x01, 0x05, 0xD0, 0x07] ∨ w = unitWord [0x2E, 0x81, 0x05, 0xD4, 0x07] := by
      simpa [st, unitsOf] using hw
    rcases h with rfl | rfl <;> rfl⟩
theorem witness_StreamingRealisationAgrees : (st [0x3E, 0x83] 0).res.length ≤ 4 := by decide
theorem witness_CursorStaysOnUnits :
    52 ≤ (rep 260 1).length / 5 ∧ (rep 260 1).length ≤ 260 ∧
      51 < (rep 260 1).length / 5 ∧
      (unitLoop [0, 0, 0, 0, 0] 1 (Cursor.cleared, State.reset)).1.abort = true := by
  refine ⟨by simp, by simp, by simp, rfl⟩

theorem witness_RstRestoresReset :
    ({ State.reset with evOffer := [.boot], pending := [{ rst := true, act := .txTake }] } : State).pending =
      { rst := true, act := .txTake } :: [] := rfl
theorem witness_ResclrAndScanenEffects :
    (blocked (plain .resClr)).evOffer ≠ [] ∧ (blocked (plain .resClr)).pending = plain .resClr :: [] ∧
      NoTransfer { blocked (plain .resClr) with evOffer := [] } ∧ NoTransfer (blocked (plain .resClr)) ∧
      NoTransfer (blocked (plain (.scanEn true))) ∧
      (blocked (plain (.scanEn true))).pending = plain (.scanEn true) :: [] ∧
      NoTransfer (framing 2 [1] [plain .resClr]) ∧ (framing 2 [1] [plain .resClr]).frame ≠ none ∧
      NoTransfer (sending [plain .resClr]) ∧ (sending [plain .resClr]).txOffer ≠ [] ∧
      (sending [plain .resClr]).pending = plain .resClr :: [] ∧
      NoTransfer (withInput .resClr) ∧ (withInput .resClr).evOffer = [] ∧ (withInput .resClr).frame = none ∧
      (withInput .resClr).txOffer = [] :=
  ⟨by decide, rfl, ⟨rfl, rfl⟩, ⟨rfl, rfl⟩, ⟨rfl, rfl⟩, rfl, ⟨rfl, rfl⟩, by decide, ⟨rfl, rfl⟩, by decide, rfl,
    ⟨rfl, rfl⟩, rfl, rfl, rfl⟩
theorem witness_StepRunsPresentedOperation (p : Pin) (x : Byte) (last : Bool) :
    NoTransfer (withInput (pinActivity p)) ∧ decode Config.standard (.pin p) = .ok (decodePin p) ∧
      NoTransfer (withInput (.rxByte x last)) ∧ (withInput (.rxByte x last)).rxBuf = [] ∧
      NoTransfer (withInput (.dcByte x last)) ∧ NoTransfer (withInput .dcEmpty) ∧
      NoTransfer (withInput (.frameReq x false x)) ∧ (withInput (.frameReq x false x)).frame = none ∧
      NoTransfer (framing 2 [x] [plain (.fpByte x)]) ∧ (framing 2 [x] []).fpBuf.length + 1 = (2 : Byte).toNat ∧
      Pin.ckSum ≠ .rst ∧ Pin.ckSum ≠ .resClr ∧ NoTransfer (blocked (plain (pinActivity p))) ∧
      (blocked (plain (pinActivity p))).evOffer ≠ [] ∧ (withInput (pinActivity p)).evOffer = [] ∧
      (withInput (pinActivity p)).frame = none ∧ (withInput (pinActivity p)).txOffer = [] :=
  ⟨(witness_no_transfer _).1, rfl, (witness_no_transfer _).1, rfl, (witness_no_transfer _).1, (witness_no_transfer _).1,
    (witness_no_transfer _).1, rfl, ⟨rfl, rfl⟩, rfl, by decide, by decide, ⟨rfl, rfl⟩, by simp [blocked], rfl, rfl,
    rfl⟩
theorem witness_WaitingInputsAreOvertaken :
    NoTransfer (blocked (plain .dcEmpty)) ∧ (blocked (plain .dcEmpty)).takes (plain .dcEmpty) = false ∧
      (blocked (plain .dcEmpty)).takes (plain (.fpByte 1)) = false ∧
      (blocked (plain .dcEmpty)).takes (plain (.frameReq 0 true 0)) = true ∧
      (blocked (plain .dcEmpty)).takes { rst := true, act := .dcEmpty } = true :=
  ⟨⟨rfl, rfl⟩, rfl, rfl, rfl, rfl⟩
theorem witness_ResidueLengthAtMostFour :
    (st [1, 2, 3, 4] 0).res.length ≤ 4 ∧ step (st [1, 2, 3, 4] 0) = .next (st [1, 2, 3, 4] 0) ∧
      exec (.decode []) (st [] 0) = .next (st [] 0) := ⟨by decide, rfl, rfl⟩
theorem witness_EveryStepKeepsInvariant : Inv (st [1, 2, 3, 4] 0) ∧ step (st [1, 2, 3, 4] 0) = .next (st [1, 2, 3, 4] 0) :=
  ⟨⟨by decide, by decide, by decide, fun _ h => by simp [st, State.reset] at h, fun _ => rfl, by decide, by decide⟩, rfl⟩
theorem witness_EveryStepKeepsInvariant_framing : Inv (framing 2 [0x94] []) :=
  ⟨by decide, by decide, by decide, fun r h => by simp [framing] at h; subst h; decide, fun h => by simp [framing] at h,
    by decide, by decide⟩
theorem witness_EventsLeaveOnceAndInOrder :
    step { State.reset with evOffer := [.boot] } = .next { State.reset with evOut := [.boot] } := rfl
theorem witness_EventsLeaveOnceAndInOrder_rst :
    ({ State.reset with pending := [{ rst := true, act := .idle }] } : State).nextInput
      [{ rst := true, act := .idle }] = some ({ rst := true, act := .idle }, []) := rfl
theorem witness_WaitingEventsDrain :
    ({ State.reset with evOffer := [.boot] } : State).evReady = true ∧
      ({ State.reset with evOffer := [.boot] } : State).rstNow = false ∧
      (blocked (plain .evTake)).evReady = false ∧ (blocked (plain .evTake)).evOffer = .boot :: [] ∧
      (blocked (plain .evTake)).pending = plain .evTake :: [] ∧ (blocked (plain .evTake)).txCanLeave = false ∧
      (withInput .evTake).evOffer = [] ∧ (withInput .evTake).txCanLeave = false ∧
      (blocked (plain (.evReady true))).evCanLeave = false ∧
      (blocked (plain (.evReady true))).pending = plain (.evReady true) :: [] := by decide
theorem witness_FrameBytesLeaveOnceAndInOrder :
    step { State.reset with txOffer := [⟨0xA5, false⟩, ⟨0x25, true⟩] } =
      .next { State.reset with txOffer := [⟨0x25, true⟩], txOut := [⟨0xA5, false⟩] } := rfl
theorem witness_WaitingFrameBytesDrain :
    State.reset.evCanLeave = false ∧ State.reset.txReady = true ∧ State.reset.rstNow = false ∧
      ({ blocked (plain .txTake) with txOffer := [⟨0xA5, false⟩] } : State).txReady = false ∧
      ({ blocked (plain .txTake) with txOffer := [⟨0xA5, false⟩] } : State).evCanLeave = false ∧
      (blocked (plain .txTake)).pending = plain .txTake :: [] ∧ (blocked (plain .txTake)).txOffer = [] ∧
      (blocked (plain (.txReady true))).txCanLeave = false ∧
      (blocked (plain (.txReady true))).pending = plain (.txReady true) :: [] := by decide
theorem witness_BlockWaitsForEventConsumer :
    (blocked (plain .dcEmpty)).evOffer ≠ [] ∧ (blocked (plain .dcEmpty)).evReady = false ∧
      (blocked (plain .dcEmpty)).txCanLeave = false ∧
      (blocked (plain .dcEmpty)).pending = plain .dcEmpty :: [] ∧
      step { blocked (plain .dcEmpty) with pending := [plain .txTake] } =
        .next { blocked (plain .dcEmpty) with pending := [] } := ⟨by decide, rfl, rfl, rfl, rfl⟩
theorem witness_RxRunIsOneTransaction :
    ([0xA5] : List Byte) ≠ [] ∧ NoTransfer { State.reset with pending := rxRun [0xA5] ++ [] } ∧
      ({ State.reset with pending := rxRun [0xA5] ++ [] } : State).rxBuf = [] ∧ State.reset.evOffer = [] ∧
      (rep 258 0).length = 258 := ⟨by decide, ⟨rfl, rfl⟩, rfl, rfl, by simp⟩
theorem witness_ChecksumAndUnpackerShareNothing :
    exec .ckclr (st [1] 2) = .next (st [1] 0) ∧ isCkg .ckclr = true ∧ writesResidue .ckclr = false ∧
      exec .resclr (st [1] 2) = .next (st [] 2) ∧ isCkg .resclr = false ∧ writesAcc .resclr = false :=
  ⟨rfl, rfl, rfl, rfl, rfl, rfl⟩
theorem witness_DecodeOfEncodeIsIdentity :
    Config.standard.ok = true ∧
    WellFormed Config.standard (.unitStart 63 23040 65535) ∧ WellFormed Config.standard (.info 0 0 0 0 (rep 16 0)) ∧
      WellFormed Config.standard (.boot (rep 48 0)) ∧ WellFormed Config.standard (.unitErr3 true 0 23041 0) ∧
      WellFormed Config.standard (.unrec []) ∧ WellFormed Config.standard (.framep 0 (rep 255 0)) := by
  refine ⟨by decide, by decide, by decide, by decide, by decide, by decide, ?_⟩
  simp [WellFormed, wellFormed]
theorem witness_EveryUnitWordHasOneReading :
    WellFormed Config.standard (.unitStart 0 1 4) ∧ encode Config.standard (.unitStart 0 1 4) = .unit (unitBytes 0x0004000301) := by decide
theorem witness_PresentedUnitRuns : State.reset.dcBuf = [] := rfl
theorem witness_EventPortLayout : (rep 16 0).length = 16 ∧ 15 < 16 := by decide

end Sys2Proof.Tests
end

/-! ### The residue (10_state.md R20 to R22)

What an operation, what the ports, and then what one step can do to `RES`; `RES_LEN` ≤ 4 follows, since the only new
values are the empty residue and the trailing bytes of a combined buffer. -/

namespace Sys2Proof.Machine

open Safety

@[simp] theorem State.deliver_res (r : Except Cause Sample) (s : State) : (s.deliver r).res = s.res := by
  rw [deliver_eq]

@[simp] theorem State.runChunk_res (c : List Byte) (s : State) : (s.runChunk c).res = trailing (s.res ++ c) := by
  rw [runChunk_eq]

theorem trailing_length_le (q : List Byte) : (trailing q).length ≤ 4 := by
  rw [trailing_length]
  omega

/-- The new residue `r'` is the old `r`, or empty (`RESCLR`, `RST`), or what `DECODE` commits after it. -/
def ResidueMoves (r r' : List Byte) : Prop :=
  r' = r ∨ r' = [] ∨ ∃ c, r' = trailing (r ++ c)

theorem ResidueMoves.length_le {r r' : List Byte} (h : ResidueMoves r r') (hr : r.length ≤ 4) : r'.length ≤ 4 := by
  obtain rfl | rfl | ⟨c, rfl⟩ := h
  · exact hr
  · exact Nat.zero_le 4
  · exact trailing_length_le (r ++ c)

/-- An operation that is not among the writers of `RES` keeps it (10_state.md R20). -/
theorem exec_keeps_residue (i : Instr) (s t : State) (hw : writesResidue i = false) (h : exec i s = .next t) :
    t.res = s.res := by
  cases i with
  | rx | scanchunk | decode | resclr | rst => cases hw
  | health | info | scanack | boot | scandrop | unrec | frame2 | framep | ckclr | ckbyte | ckread | scanen =>
    obtain rfl := Host.Outcome.next.inj h
    rfl
  | unitStart | unitCont | unitErr1Zeros | unitErr1Ones | unitErr2 | unitErr3 =>
    obtain rfl := Host.Outcome.next.inj h
    exact State.deliver_res _ s

/-- Of the operations an inbound buffer can be, only `SCANCHUNK` writes the residue (41_response_classifier.md R116). -/
theorem decodeBuffer_scanchunk_or_keeps (cfg : Config.Settings) (b : List Byte) (e : Bool) :
    decodeBuffer cfg b e = .scanchunk b ∨ writesResidue (decodeBuffer cfg b e) = false := by
  unfold decodeBuffer
  cases classify cfg b with
  | health | info | scanStartAck | bootAnnouncement => exact .inr rfl
  | unrecognized =>
    dsimp only
    split_ifs
    · exact .inl rfl
    · exact .inr rfl
    · exact .inr rfl

theorem exec_decode_residue (c : List Byte) (s t : State) (h : exec (.decode c) s = .next t) :
    t.res = trailing (s.res ++ c) := by
  obtain rfl := Host.Outcome.next.inj h
  exact s.runChunk_res c

theorem exec_scanchunk_residue (b : List Byte) (s t : State) (h : exec (.scanchunk b) s = .next t) :
    t.res = trailing (s.res ++ b) := by
  obtain rfl := Host.Outcome.next.inj h
  exact (s.showClass .scanchunk).runChunk_res b

/-- What an operation can do to the residue. -/
theorem exec_residueMoves (i : Instr) (s t : State) (h : exec i s = .next t) : ResidueMoves s.res t.res := by
  by_cases hw : writesResidue i = false
  · exact .inl (exec_keeps_residue i s t hw h)
  · cases i with
    | rx b e =>
      rw [execRx_decodeBuffer] at h
      obtain hd | hd := decodeBuffer_scanchunk_or_keeps s.cfg b e
      · exact .inr (.inr ⟨b, exec_scanchunk_residue b s t (hd ▸ h)⟩)
      · exact .inl (exec_keeps_residue _ s t hd h)
    | scanchunk b => exact .inr (.inr ⟨b, exec_scanchunk_residue b s t h⟩)
    | decode c => exact .inr (.inr ⟨c, exec_decode_residue c s t h⟩)
    | resclr | rst =>
      obtain rfl := Host.Outcome.next.inj h
      exact .inr (.inl rfl)
    | _ => exact absurd rfl hw

/-- The state a move leaves, or runs its operation in. -/
def Move.state : Move → State
  | .quiet s => s
  | .run _ s => s

@[simp] theorem Move.state_quiet (s : State) : (Move.quiet s).state = s := rfl
@[simp] theorem Move.state_run (i : Instr) (s : State) : (Move.run i s).state = s := rfl

/-- A step that answers a next state made a move that is no operation, or ran the operation of its move. -/
theorem step_cases (s t : State) (h : step s = .next t) :
    s.move = .quiet t ∨ ∃ i u, s.move = .run i u ∧ exec i u = .next t := by
  unfold step at h
  cases hm : s.move with
  | quiet u =>
    simp only [hm, Host.Outcome.next.injEq] at h
    exact .inl (by rw [h])
  | run i u =>
    simp only [hm] at h
    exact .inr ⟨i, u, rfl, h⟩

@[simp] theorem State.driveLevels_res (a : Activity) (s : State) : (s.driveLevels a).res = s.res := by
  cases a <;> rfl

theorem takePayload_keeps_residue (d : Byte) (s : State) : (s.takePayload d).state.res = s.res := by
  unfold State.takePayload
  cases s.frame with
  | none => rfl
  | some r => dsimp only; split_ifs <;> rfl

/-- Taking an input writes no residue: only the operation it makes can. -/
theorem accept_keeps_residue (x : Input) (s : State) : (s.accept x).state.res = s.res := by
  obtain ⟨rst, a⟩ := x
  unfold State.accept
  cases rst with
  | true => exact State.driveLevels_res a s
  | false =>
    simp only [Bool.false_eq_true, if_false]
    cases a with
    | idle | dcEmpty | ckSum | scanEn | evReady | evTake | txReady | txTake => rfl
    | rxByte d last => cases last <;> rfl
    | dcByte d last => cases last <;> rfl
    | frameReq op hasPayload len =>
      cases hasPayload with
      | false => rfl
      | true => dsimp only; split_ifs <;> rfl
    | fpByte d => exact takePayload_keeps_residue d s
    | ckPins clr data => cases clr <;> cases data <;> rfl
    | resClr => dsimp only; split_ifs <;> rfl

theorem move_keeps_residue (s : State) : s.move.state.res = s.res := by
  obtain ⟨-, -, -, hm⟩ | ⟨-, -, -, -, hm⟩ | ⟨-, hm⟩ | ⟨x, rest, -, hm⟩ := move_cases s <;> rw [hm]
  · rfl
  · rfl
  · rfl
  · exact accept_keeps_residue x _

/-- What a step can do to the residue. -/
theorem step_residueMoves (s t : State) (h : step s = .next t) : ResidueMoves s.res t.res := by
  have hkeep := move_keeps_residue s
  obtain hm | ⟨i, u, hm, hex⟩ := step_cases s t h
  · rw [hm] at hkeep
    exact .inl hkeep
  · rw [hm, Move.state_run] at hkeep
    exact hkeep ▸ exec_residueMoves i u t hex

/-- The 3-bit register holds the whole number of residue bytes while these are at most four (10_state.md R22). -/
theorem resLen_toNat (s : State) (h : s.res.length ≤ 4) : s.resLen.toNat = s.res.length := by
  rw [State.resLen, BitVec.toNat_ofNat]
  omega

/-- Settles O39: a step keeps the residue, clears it, or commits a remainder modulo 5, and `DECODE` does the last. -/
theorem residueLengthAtMostFour : Obligations.ResidueLengthAtMostFour := by
  unfold Obligations.ResidueLengthAtMostFour
  refine ⟨fun s t hs h => ?_, fun c s t h => ?_⟩
  · have ht : t.res.length ≤ 4 := (step_residueMoves s t h).length_le hs
    have hlen := resLen_toNat t ht
    refine ⟨ht, hlen, ?_⟩
    rw [hlen]
    simp only [List.mem_cons, List.not_mem_nil, or_false]
    omega
  · rw [exec_decode_residue c s t h, trailing_length, List.length_append]

end Sys2Proof.Machine

/-! ### The response classifier (41_response_classifier.md)

Which of the seven formats a buffer decodes to, said once per result of the classifier, and what each format does, said
once for all of them: `RX` is the format its buffer decodes to (`execRx_decodeBuffer`). -/

namespace Sys2Proof.Machine

open Safety

section Formats

variable {cfg : Config.Settings} {b : List Byte} {e : Bool}

theorem decodeBuffer_of_health (h : classify cfg b = .health) :
    decodeBuffer cfg b e = .health (healthStatus b) (healthErrorCode b) := by
  simp only [decodeBuffer, h]

theorem decodeBuffer_of_info (h : classify cfg b = .info) :
    decodeBuffer cfg b e = .info (infoModel b) (infoFirmwareMinor b) (infoFirmwareMajor b) (infoHardware b)
      (infoSerial b) := by
  simp only [decodeBuffer, h]

theorem decodeBuffer_of_scanStartAck (h : classify cfg b = .scanStartAck) : decodeBuffer cfg b e = .scanack := by
  simp only [decodeBuffer, h]

theorem decodeBuffer_of_bootAnnouncement (h : classify cfg b = .bootAnnouncement) :
    decodeBuffer cfg b e = .boot (bootTail cfg b) := by
  simp only [decodeBuffer, h]

/-- 256 bytes are scan data whatever they begin with (41_response_classifier.md R116, R117). -/
theorem decodeBuffer_of_chunk (h : b.length = 256) :
    decodeBuffer cfg b e = if e then .scanchunk b else .scandrop b := by
  simp only [decodeBuffer, Laws.RoundTrip.classify_chunk b cfg h, Config.chunkBytes, h, if_true]

theorem decodeBuffer_of_unrecognized (h : classify cfg b = .unrecognized) (hb : b.length ≠ 256) :
    decodeBuffer cfg b e = .unrec b := by
  simp only [decodeBuffer, h, Config.chunkBytes, hb, if_false]

/-- Only 256 bytes with `scan_en` = 1 are a scan chunk. -/
theorem decodeBuffer_eq_scanchunk {b' : List Byte} (h : decodeBuffer cfg b e = .scanchunk b') :
    b.length = 256 ∧ e = true := by
  cases hc : classify cfg b with
  | health => cases decodeBuffer_of_health hc ▸ h
  | info => cases decodeBuffer_of_info hc ▸ h
  | scanStartAck => cases decodeBuffer_of_scanStartAck hc ▸ h
  | bootAnnouncement => cases decodeBuffer_of_bootAnnouncement hc ▸ h
  | unrecognized =>
    by_cases hb : b.length = 256
    · cases e with
      | true => exact ⟨hb, rfl⟩
      | false => cases decodeBuffer_of_chunk hb ▸ h
    · cases decodeBuffer_of_unrecognized hc hb ▸ h

end Formats

/-- The class code that a format shows (30_encoding.md R80): `UNREC`'s for what is none of the other six. -/
def formatClass : Instr → ClassCode
  | .health _ _ => .health
  | .info _ _ _ _ _ => .info
  | .scanack => .scanack
  | .boot _ => .boot
  | .scanchunk _ => .scanchunk
  | .scandrop _ => .scandrop
  | _ => .unrec

/-- The events that a format produces behind the residue `res` (41_response_classifier.md R119). -/
def formatEvents (res : List Byte) : Instr → List Event
  | .health status errorCode => [.health status errorCode]
  | .info model fmin fmaj hw serial => [.info model fmin fmaj hw serial]
  | .scanack => [.scanStart]
  | .boot _ => [.boot]
  | .scanchunk b => eventsOf (unitsOf (res ++ b))
  | _ => []

/-- The residue that a format leaves of the residue `res`: only `SCANCHUNK` rewrites it. -/
def formatResidue (res : List Byte) : Instr → List Byte
  | .scanchunk b => trailing (res ++ b)
  | _ => res

/-- All that a format does: its class code, its events, and the residue of a scan chunk. -/
def State.respond (i : Instr) (s : State) : State :=
  { s with
    clsOut := s.clsOut ++ [formatClass i]
    res := formatResidue s.res i
    evOffer := s.evOffer ++ formatEvents s.res i }

theorem exec_decode (c : List Byte) (s : State) :
    exec (.decode c) s =
      .next { s with res := trailing (s.res ++ c), evOffer := s.evOffer ++ eventsOf (unitsOf (s.res ++ c)) } :=
  congrArg Host.Outcome.next (runChunk_eq c s)

theorem exec_scanchunk (b : List Byte) (s : State) : exec (.scanchunk b) s = .next (s.respond (.scanchunk b)) :=
  exec_decode b (s.showClass .scanchunk)

/-- A format without events that leaves the residue changes nothing but the record of class codes. -/
theorem respond_silent {i : Instr} {s : State} (hev : formatEvents s.res i = []) (hres : formatResidue s.res i = s.res) :
    s.respond i = { s with clsOut := s.clsOut ++ [formatClass i] } := by
  rw [State.respond, hev, hres, List.append_nil]

theorem respond_scandrop (b : List Byte) (s : State) :
    s.respond (.scandrop b) = { s with clsOut := s.clsOut ++ [.scandrop] } :=
  respond_silent rfl rfl

theorem respond_unrec (b : List Byte) (s : State) :
    s.respond (.unrec b) = { s with clsOut := s.clsOut ++ [.unrec] } :=
  respond_silent rfl rfl

/-- The operation a buffer decodes to does what its format says. -/
theorem exec_decodeBuffer (cfg : Config.Settings) (b : List Byte) (e : Bool) (s : State) :
    exec (decodeBuffer cfg b e) s = .next (s.respond (decodeBuffer cfg b e)) := by
  cases hc : classify cfg b with
  | health => rw [decodeBuffer_of_health hc]; rfl
  | info => rw [decodeBuffer_of_info hc]; rfl
  | scanStartAck => rw [decodeBuffer_of_scanStartAck hc]; rfl
  | bootAnnouncement => rw [decodeBuffer_of_bootAnnouncement hc]; rfl
  | unrecognized =>
    by_cases hb : b.length = 256
    · rw [decodeBuffer_of_chunk hb]
      cases e with
      | true => exact exec_scanchunk b s
      | false => exact congrArg Host.Outcome.next (respond_scandrop b s).symm
    · rw [decodeBuffer_of_unrecognized hc hb]
      exact congrArg Host.Outcome.next (respond_unrec b s).symm

/-- `RX` does what the format of its buffer says (41_response_classifier.md R111). -/
theorem exec_rx (b : List Byte) (e : Bool) (s : State) :
    exec (.rx b e) s = .next (s.respond (decodeBuffer s.cfg b e)) :=
  (execRx_decodeBuffer b e s).trans (exec_decodeBuffer s.cfg b e s)

theorem lastClass_respond (i : Instr) (s : State) : (s.respond i).lastClass = some (formatClass i).code := by
  simp [State.lastClass, State.respond]

/-- Units give samples and ParseErrors only (42_scan_unpacker.md R147). -/
theorem eventsOf_data_or_error (ws : List UnitWord) :
    ∀ ev ∈ eventsOf ws, (∃ x, ev = .data x) ∨ ∃ c, ev = .error c := by
  induction ws with
  | nil => simp [eventsOf]
  | cons w ws ih =>
    rw [eventsOf]
    cases unitResult w with
    | ok x => exact List.forall_mem_cons.2 ⟨.inl ⟨x, rfl⟩, ih⟩
    | error c => exact List.forall_mem_singleton.2 (.inr ⟨c, rfl⟩)

/-- A ParseError comes from a scan chunk only. -/
theorem scanchunk_of_error_mem_formatEvents {res : List Byte} {i : Instr} {k : Cause}
    (h : Event.error k ∈ formatEvents res i) : ∃ b, i = .scanchunk b := by
  cases i with
  | scanchunk b => exact ⟨b, rfl⟩
  | health | info | scanack | boot => cases List.mem_singleton.1 h
  | _ => cases h

/-- The last byte of a buffer that the block takes runs `RX` on the whole buffer, with the level of `scan_en` at that
moment (10_state.md R27). -/
theorem step_rxByte_last (x : Byte) (rest : List Input) (s : State) (h : NoTransfer s) (hev : s.evOffer = [])
    (hlen : s.rxBuf.length ≤ 256) (hp : s.pending = plain (.rxByte x true) :: rest) :
    step s = exec (.rx (s.rxBuf ++ [x]) s.scanEn) { s with rxBuf := [], pending := rest } := by
  have ht : s.takes (plain (.rxByte x true)) = true := by
    simp [State.takes, plain, State.rxReady, State.evValid, hev]
  have hpush : State.rxPush x { s with pending := rest } = s.rxBuf ++ [x] := if_pos hlen
  rw [step_taken s h _ rest hp ht, ← hpush]
  rfl

/-- Settles O11: `RX` is `exec_rx`; each result of the classifier gives its one format with its class code. -/
theorem rxPerformsExactlyOneOperation : Obligations.RxPerformsExactlyOneOperation := by
  unfold Obligations.RxPerformsExactlyOneOperation
  refine ⟨fun b e s => ⟨_, exec_rx b e s, exec_decodeBuffer s.cfg b e s, ?_⟩, step_rxByte_last, ?_⟩
  · cases hc : classify s.cfg b with
    | health =>
      rw [decodeBuffer_of_health hc]
      exact ⟨rfl, lastClass_respond _ s, rfl⟩
    | info =>
      rw [decodeBuffer_of_info hc]
      exact ⟨rfl, lastClass_respond _ s, rfl⟩
    | scanStartAck =>
      rw [decodeBuffer_of_scanStartAck hc]
      exact ⟨rfl, lastClass_respond _ s, rfl⟩
    | bootAnnouncement =>
      rw [decodeBuffer_of_bootAnnouncement hc]
      exact ⟨rfl, lastClass_respond _ s, rfl⟩
    | unrecognized =>
      dsimp only
      split_ifs with hb he
      · rw [decodeBuffer_of_chunk hb, if_pos he]
        exact ⟨rfl, lastClass_respond _ s, rfl, exec_scanchunk b s⟩
      · rw [decodeBuffer_of_chunk hb, if_neg he]
        exact ⟨rfl, lastClass_respond _ s, rfl, respond_scandrop b s⟩
      · rw [decodeBuffer_of_unrecognized hc hb]
        exact ⟨rfl, lastClass_respond _ s, rfl, respond_unrec b s⟩
  · intro b e s t new k h hnew hk
    obtain rfl := Host.Outcome.next.inj ((exec_rx b e s).symm.trans h)
    obtain rfl := List.append_cancel_left hnew
    obtain ⟨b', hb'⟩ := scanchunk_of_error_mem_formatEvents hk
    exact decodeBuffer_eq_scanchunk hb'

/-- A little-endian number of one more byte: its least significant byte, then the number of the rest (20_memory.md
R43). -/
theorem memRead_succ (q : List Byte) (i n : Nat) :
    memRead q i (n + 1) = (byteAt q i).toNat + 256 * memRead q (i + 1) n := by
  by_cases h : i < q.length
  · rw [memRead, slice, List.drop_eq_getElem_cons h, byteAt, List.getD_eq_getElem _ _ h]
    rfl
  · have hi : q.length ≤ i := Nat.le_of_not_lt h
    have hs : q.length ≤ i + 1 := Nat.le_succ_of_le hi
    simp [memRead, slice, byteAt, List.drop_eq_nil_of_le, leValue, hi, hs]

theorem healthErrorCode_eq (b : List Byte) :
    healthErrorCode b = BitVec.ofNat 16 ((b.getD 8 0).toNat + 256 * (b.getD 9 0).toNat) := by
  have h0 : memRead b 10 0 = 0 := rfl
  rw [healthErrorCode, memRead_succ, memRead_succ, h0]
  rfl

/-- An unrecognised buffer is `UNREC`: it only shows class 0 (41_response_classifier.md R118). -/
theorem rx_unrecognized (b : List Byte) (e : Bool) (s : State) (h : classify s.cfg b = .unrecognized)
    (hb : b.length ≠ 256) :
    decodeBuffer s.cfg b e = .unrec b ∧ exec (.rx b e) s = .next { s with clsOut := s.clsOut ++ [.unrec] } := by
  have hd : decodeBuffer s.cfg b e = .unrec b := decodeBuffer_of_unrecognized h hb
  exact ⟨hd, by rw [exec_rx, hd, respond_unrec]⟩

theorem classify_health (cfg : Config.Settings) (b : List Byte) (hb : b.length = 10) (hp : b.take 7 = Config.preHealth) :
    classify cfg b = .health :=
  if_pos ⟨hb, hp⟩

/-- Ten bytes have the length of no reply but `HEALTH`. -/
theorem classify_ten_bytes (cfg : Config.Settings) (b : List Byte) (hb : b.length = 10)
    (hp : b.take 7 ≠ Config.preHealth) : classify cfg b = .unrecognized := by
  simp [classify, hb, hp, Config.healthLen, Config.infoLen, Config.ackLen, Config.bootLen]

/-- A buffer of the length of no reply is none (41_response_classifier.md R110). -/
theorem classify_other_length (cfg : Config.Settings) (b : List Byte) (hb : b.length ∉ [7, 10, 27, 56]) :
    classify cfg b = .unrecognized := by
  simp only [List.mem_cons, List.not_mem_nil, or_false, not_or] at hb
  simp [classify, hb, Config.healthLen, Config.infoLen, Config.ackLen, Config.bootLen]

/-- Settles O12: ten bytes with the preamble are `HEALTH` of bytes 7 to 9; ten others, and any eleven, are no reply. -/
theorem healthBufferReported : Obligations.HealthBufferReported := by
  unfold Obligations.HealthBufferReported
  intro b e s
  refine ⟨rfl, fun _ _ => rfl, fun hb hp => ?_, fun hb hp => ?_, fun hb => ?_⟩
  · rw [exec_rx, decodeBuffer_of_health (classify_health s.cfg b hb hp), healthErrorCode_eq]
    rfl
  · exact rx_unrecognized b e s (classify_ten_bytes s.cfg b hb hp) (by omega)
  · exact rx_unrecognized b e s (classify_other_length s.cfg b (by simp [hb])) (by omega)

/-- Settles O16: `RX` of 256 bytes with `scan_en` = 1 is `SCANCHUNK`, which is `DECODE` behind its class code. -/
theorem scanchunkIsDecode : Obligations.ScanchunkIsDecode := by
  unfold Obligations.ScanchunkIsDecode
  intro b s hb
  have hrx : exec (.rx b true) s = exec (.scanchunk b) s := by
    rw [execRx_decodeBuffer, decodeBuffer_of_chunk hb, if_pos rfl]
  refine ⟨rfl, fun i hi => ?_, fun hres => ?_⟩
  · have hex : exec i s = exec (.scanchunk b) s := by
      obtain rfl | rfl : i = .rx b true ∨ i = .scanchunk b := by simpa using hi
      · exact hrx
      · rfl
    exact ⟨hex, hex.trans (exec_scanchunk b s)⟩
  · rw [unitsOf_length, List.length_append, hb]
    split_ifs <;> omega

/-- Settles O18: the events `RX` adds are those of the format its buffer decodes to. -/
theorem oneEventPerRecognisedReply : Obligations.OneEventPerRecognisedReply := by
  unfold Obligations.OneEventPerRecognisedReply
  intro b e s
  refine ⟨formatEvents s.res (decodeBuffer s.cfg b e), ⟨_, exec_rx b e s, rfl⟩,
    ⟨_, exec_decodeBuffer s.cfg b e s, rfl⟩, ?_⟩
  cases hc : classify s.cfg b with
  | health =>
    rw [decodeBuffer_of_health hc]
    exact ⟨_, _, rfl⟩
  | info =>
    rw [decodeBuffer_of_info hc]
    exact ⟨_, _, _, _, _, rfl⟩
  | scanStartAck => rw [decodeBuffer_of_scanStartAck hc]; rfl
  | bootAnnouncement => rw [decodeBuffer_of_bootAnnouncement hc]; rfl
  | unrecognized =>
    by_cases hb : b.length = 256
    · rw [decodeBuffer_of_chunk hb]
      cases e with
      | true => exact ⟨⟨_, exec_decode b s, rfl⟩, eventsOf_data_or_error _⟩
      | false => rfl
    · rw [decodeBuffer_of_unrecognized hc hb]
      rfl

end Sys2Proof.Machine

/-! ### DECODE (42_scan_unpacker.md R147)

Which unit word stands behind each event of a chunk: the words of the combined buffer by their offset, then the events
of a list of words by their place. -/

namespace Sys2Proof.Machine

open Safety

/-- A buffer that holds a unit has five bytes. -/
theorem five_le_of_getElem?_unitsOf {q : List Byte} {k : Nat} {w : UnitWord} (h : (unitsOf q)[k]? = some w) :
    5 ≤ q.length := by
  by_contra hq
  simp [unitsOf_short q (Nat.lt_of_not_le hq)] at h

/-- Unit `k` of a buffer is its five bytes from `5·k` on. -/
theorem eq_unitWord_of_getElem?_unitsOf {q : List Byte} {k : Nat} {w : UnitWord} (h : (unitsOf q)[k]? = some w) :
    w = unitWord ((q.drop (5 * k)).take 5) := by
  induction k generalizing q with
  | zero =>
    rw [unitsOf_long q (five_le_of_getElem?_unitsOf h)] at h
    exact (Option.some.inj h).symm
  | succ k ih =>
    rw [unitsOf_long q (five_le_of_getElem?_unitsOf h)] at h
    rw [ih h, List.drop_drop, Nat.mul_succ, Nat.add_comm]

theorem eventsOf_cons_ok {w : UnitWord} {x : Sample} (h : unitResult w = .ok x) (ws : List UnitWord) :
    eventsOf (w :: ws) = .data x :: eventsOf ws := by
  simp only [eventsOf, h]

/-- A malformed unit is the last one that gives an event (42_scan_unpacker.md R150). -/
theorem eventsOf_cons_error {w : UnitWord} {e : Cause} (h : unitResult w = .error e) (ws : List UnitWord) :
    eventsOf (w :: ws) = [.error e] := by
  simp only [eventsOf, h]

theorem eventsOf_length_le (ws : List UnitWord) : (eventsOf ws).length ≤ ws.length := by
  induction ws with
  | nil => exact Nat.le_refl 0
  | cons w ws ih =>
    cases h : unitResult w with
    | ok x =>
      rw [eventsOf_cons_ok h]
      exact Nat.succ_le_succ ih
    | error e =>
      rw [eventsOf_cons_error h]
      exact Nat.succ_le_succ (Nat.zero_le _)

theorem eq_nil_of_eventsOf_eq_nil {ws : List UnitWord} (h : eventsOf ws = []) : ws = [] := by
  cases ws with
  | nil => rfl
  | cons w ws =>
    cases hw : unitResult w with
    | ok x => cases eventsOf_cons_ok hw ws ▸ h
    | error e => cases eventsOf_cons_error hw ws ▸ h

/-- Event `k` is what unit `k` gives: its sample, or the cause of its ParseError, and then it is the last event. A
sample is the last event only where the units end. -/
theorem eventsOf_getElem? {ws : List UnitWord} {k : Nat} (hk : k < (eventsOf ws).length) :
    ∃ w, ws[k]? = some w ∧
      ((∃ x, unitResult w = .ok x ∧ (eventsOf ws)[k]? = some (.data x) ∧
          (k + 1 = (eventsOf ws).length → (eventsOf ws).length = ws.length)) ∨
        (∃ e, unitResult w = .error e ∧ (eventsOf ws)[k]? = some (.error e) ∧ k + 1 = (eventsOf ws).length)) := by
  induction ws generalizing k with
  | nil => cases hk
  | cons w ws ih =>
    cases hw : unitResult w with
    | error e =>
      rw [eventsOf_cons_error hw] at hk ⊢
      obtain rfl : k = 0 := by simpa using hk
      exact ⟨w, rfl, .inr ⟨e, hw, rfl, rfl⟩⟩
    | ok x =>
      rw [eventsOf_cons_ok hw] at hk ⊢
      cases k with
      | zero =>
        refine ⟨w, rfl, .inl ⟨x, hw, rfl, fun hlen => ?_⟩⟩
        obtain rfl : ws = [] := eq_nil_of_eventsOf_eq_nil (by simpa using hlen.symm)
        rfl
      | succ k => simpa using ih (Nat.lt_of_succ_lt_succ hk)

/-- A chunk that completes no unit only lengthens the residue. -/
theorem exec_decode_short (c : List Byte) (s : State) (h : (s.res ++ c).length < 5) :
    exec (.decode c) s = .next { s with res := s.res ++ c } := by
  simp [exec_decode, trailing_short _ h, unitsOf_short _ h, eventsOf]

/-- Settles O27: the events are those of the units of the combined buffer (`exec_decode`), each at its unit's place. -/
theorem decodeOneChunk : Obligations.DecodeOneChunk := by
  unfold Obligations.DecodeOneChunk
  intro c s buf unit
  have hcount : (unitsOf buf).length = buf.length / 5 := unitsOf_length buf
  refine ⟨⟨eventsOf (unitsOf buf), exec_decode c s, hcount ▸ eventsOf_length_le _, fun k hk => ?_, fun k hk => ?_,
    fun hnew => ?_⟩, fun hc hres => ?_, exec_decode_short c s, fun hmod => ⟨_, exec_decode c s, ?_⟩, rfl,
    fun hc => ⟨?_, rfl⟩, fun hres hc => ?_⟩
  · obtain ⟨w, hw, ⟨x, hx, hev, -⟩ | ⟨e, -, -, hlast⟩⟩ := eventsOf_getElem? (Nat.lt_of_succ_lt hk)
    · obtain rfl := eq_unitWord_of_getElem?_unitsOf hw
      exact ⟨x, hx, hev⟩
    · exact absurd hlast hk.ne
  · obtain ⟨w, hw, h⟩ := eventsOf_getElem? (Nat.lt_of_succ_le hk.le)
    obtain rfl := eq_unitWord_of_getElem?_unitsOf hw
    obtain ⟨x, hx, hev, hlen⟩ | ⟨e, he, hev, -⟩ := h
    · exact .inl ⟨x, hx, hev, (hlen hk).trans hcount⟩
    · exact .inr ⟨e, he, hev⟩
  · rw [← hcount, eq_nil_of_eventsOf_eq_nil hnew]
    rfl
  · subst hc
    rw [exec_decode_short [] s (by simp; omega), List.append_nil]
  · exact List.eq_nil_of_length_eq_zero ((trailing_length buf).trans hmod)
  · rw [decodeBuffer_of_chunk hc, if_pos rfl]
  · rw [exec_decode, hres, hc]
    rfl

end Sys2Proof.Machine

/-! ### CLASSIFY (41_response_classifier.md R110)

Each result exactly for its length and leading bytes: the four recognised lengths differ, so the order of the tests does
not matter. -/

namespace Sys2Proof.Machine

open Safety

section Classify

variable {cfg : Config.Settings} {b : List Byte}

theorem classify_eq_health_iff : classify cfg b = .health ↔ b.length = 10 ∧ b.take 7 = Config.preHealth := by
  constructor
  · intro h
    unfold classify at h
    split_ifs at h with hh
    exact hh
  · rintro ⟨hb, hp⟩
    exact classify_health cfg b hb hp

theorem classify_eq_info_iff : classify cfg b = .info ↔ b.length = 27 ∧ b.take 7 = Config.preInfo := by
  constructor
  · intro h
    unfold classify at h
    split_ifs at h with _ hi
    exact hi
  · rintro ⟨hb, hp⟩
    simp [classify, hb, hp, Config.healthLen, Config.infoLen]

theorem classify_eq_scanStartAck_iff :
    classify cfg b = .scanStartAck ↔ b.length = 7 ∧ b.take 7 = Config.seqAck := by
  constructor
  · intro h
    unfold classify at h
    split_ifs at h with _ _ ha
    exact ha
  · rintro ⟨hb, hp⟩
    simp [classify, hb, hp, Config.healthLen, Config.infoLen, Config.ackLen]

theorem classify_eq_bootAnnouncement_iff :
    classify cfg b = .bootAnnouncement ↔ b.length = 56 ∧ b.take cfg.bootPrefix.length = cfg.bootPrefix := by
  constructor
  · intro h
    unfold classify at h
    split_ifs at h with _ _ _ hb
    exact hb
  · rintro ⟨hb, hp⟩
    simp [classify, hb, hp, Config.healthLen, Config.infoLen, Config.ackLen, Config.bootLen]

/-- A buffer that fails the test of its length, if its length has one, is unrecognised. -/
theorem classify_eq_unrecognized (hh : b.length = 10 → b.take 7 ≠ Config.preHealth)
    (hi : b.length = 27 → b.take 7 ≠ Config.preInfo) (ha : b.length = 7 → b.take 7 ≠ Config.seqAck)
    (hb : b.length = 56 → b.take cfg.bootPrefix.length ≠ cfg.bootPrefix) : classify cfg b = .unrecognized := by
  cases hc : classify cfg b with
  | health => exact (not_and.2 hh (classify_eq_health_iff.1 hc)).elim
  | info => exact (not_and.2 hi (classify_eq_info_iff.1 hc)).elim
  | scanStartAck => exact (not_and.2 ha (classify_eq_scanStartAck_iff.1 hc)).elim
  | bootAnnouncement => exact (not_and.2 hb (classify_eq_bootAnnouncement_iff.1 hc)).elim
  | unrecognized => rfl

/-- Buffers that agree in their first `n` bytes agree in fewer. -/
theorem take_eq_of_take_eq {α : Type} {l l' : List α} {m n : Nat} (hmn : m ≤ n) (h : l.take n = l'.take n) :
    l.take m = l'.take m := by
  rw [← Nat.min_eq_left hmn, ← List.take_take, h, List.take_take]

end Classify

/-- Settles O10: each result is read off its own test, since the lengths differ, and the tests read the length and the
leading bytes only. -/
theorem classifyReadsLengthAndPrefix : Obligations.ClassifyReadsLengthAndPrefix := by
  unfold Obligations.ClassifyReadsLengthAndPrefix
  refine ⟨fun cfg b => ⟨classify_eq_health_iff, classify_eq_info_iff, classify_eq_scanStartAck_iff,
    classify_eq_bootAnnouncement_iff⟩, fun b => classify_eq_bootAnnouncement_iff, ?_⟩
  intro cfg n b b' hn hboot hlen hpre
  have h7 : b.take 7 = b'.take 7 := take_eq_of_take_eq hn hpre
  have hp : b.take cfg.bootPrefix.length = b'.take cfg.bootPrefix.length := take_eq_of_take_eq hboot hpre
  unfold classify
  rw [hlen, h7, hp]

end Sys2Proof.Machine

/-! ### Encodings (30_encoding.md)

The decoder reads back what the encoder writes (`Laws.RoundTrip`), every unit word has one row, and every inbound buffer
one format that keeps its bytes. -/

namespace Sys2Proof.Machine

open Safety

/-- The round trip of every row. -/
theorem roundTrip : ∀ i : Instr, Laws.RoundTrip.Statement i
  | .rx b e => Laws.RoundTrip.rx b e
  | .health x v => Laws.RoundTrip.health x v
  | .info m f g w r => Laws.RoundTrip.info m f g w r
  | .scanack => Laws.RoundTrip.scanack
  | .boot r => Laws.RoundTrip.boot r
  | .scanchunk b => Laws.RoundTrip.scanchunk b
  | .scandrop b => Laws.RoundTrip.scandrop b
  | .unrec b => Laws.RoundTrip.unrec b
  | .unitStart q a d => Laws.RoundTrip.unitStart q a d
  | .unitCont q a d => Laws.RoundTrip.unitCont q a d
  | .unitErr1Zeros q c a d => Laws.RoundTrip.unitErr1Zeros q c a d
  | .unitErr1Ones q c a d => Laws.RoundTrip.unitErr1Ones q c a d
  | .unitErr2 f q a d => Laws.RoundTrip.unitErr2 f q a d
  | .unitErr3 f q a d => Laws.RoundTrip.unitErr3 f q a d
  | .decode c => Laws.RoundTrip.decode c
  | .frame2 op => Laws.RoundTrip.frame2 op
  | .framep op p => Laws.RoundTrip.framep op p
  | .ckclr => Laws.RoundTrip.ckclr
  | .ckbyte x => Laws.RoundTrip.ckbyte x
  | .ckread => Laws.RoundTrip.ckread
  | .rst => Laws.RoundTrip.rst
  | .scanen e => Laws.RoundTrip.scanen e
  | .resclr => Laws.RoundTrip.resclr

/-- Settles O49, row by row. -/
theorem decodeOfEncodeIsIdentity : Obligations.DecodeOfEncodeIsIdentity := by
  unfold Obligations.DecodeOfEncodeIsIdentity
  exact fun cfg i hcfg hwf => roundTrip i cfg hcfg hwf

/-- The row of a unit word, by its start pair, its check bit and its angle (30_encoding.md R74). -/
theorem decodeUnit_cases (w : UnitWord) :
    (flagS w = false ∧ flagNS w = false ∧
      decodeUnit w = .unitErr1Zeros (fieldQ w) (flagC w) (fieldA w) (fieldD w)) ∨
    (flagS w = true ∧ flagNS w = true ∧
      decodeUnit w = .unitErr1Ones (fieldQ w) (flagC w) (fieldA w) (fieldD w)) ∨
    (flagNS w = !flagS w ∧ flagC w = false ∧
      decodeUnit w = .unitErr2 (flagS w) (fieldQ w) (fieldA w) (fieldD w)) ∨
    (flagNS w = !flagS w ∧ flagC w = true ∧ angleOk (fieldA w) = false ∧
      decodeUnit w = .unitErr3 (flagS w) (fieldQ w) (fieldA w) (fieldD w)) ∨
    (flagS w = true ∧ flagNS w = false ∧ flagC w = true ∧ angleOk (fieldA w) = true ∧
      decodeUnit w = .unitStart (fieldQ w) (fieldA w) (fieldD w)) ∨
    (flagS w = false ∧ flagNS w = true ∧ flagC w = true ∧ angleOk (fieldA w) = true ∧
      decodeUnit w = .unitCont (fieldQ w) (fieldA w) (fieldD w)) := by
  unfold decodeUnit
  cases flagS w <;> cases flagNS w <;> simp [pairOk, checkOk]
  all_goals cases flagC w <;> cases angleOk (fieldA w) <;> simp

theorem decodeUnit_wellFormed (cfg : Config.Settings) (w : UnitWord) : WellFormed cfg (decodeUnit w) := by
  obtain ⟨-, -, hd⟩ | ⟨-, -, hd⟩ | ⟨-, -, hd⟩ | ⟨-, -, ha, hd⟩ | ⟨-, -, -, ha, hd⟩ | ⟨-, -, -, ha, hd⟩ :=
    decodeUnit_cases w <;> rw [hd]
  · rfl
  · rfl
  · rfl
  · simpa [WellFormed, wellFormed] using ha
  · exact ha
  · exact ha

/-- The row of a unit word encodes to that word: the row keeps every field that its format does not fix. -/
theorem encode_decodeUnit (cfg : Config.Settings) (w : UnitWord) :
    encode cfg (decodeUnit w) = .unit (unitBytes w) := by
  have hw := packUnit_fields w
  obtain ⟨hs, hn, hd⟩ | ⟨hs, hn, hd⟩ | ⟨hn, hc, hd⟩ | ⟨hn, hc, -, hd⟩ | ⟨hs, hn, hc, -, hd⟩ |
    ⟨hs, hn, hc, -, hd⟩ := decodeUnit_cases w
  · rw [hs, hn] at hw
    rw [hd, encode, hw]
  · rw [hs, hn] at hw
    rw [hd, encode, hw]
  · rw [hn, hc] at hw
    rw [hd, encode, hw]
  · rw [hn, hc] at hw
    rw [hd, encode, hw]
  · rw [hs, hn, hc] at hw
    rw [hd, encode, hw]
  · rw [hs, hn, hc] at hw
    rw [hd, encode, hw]

/-- A unit row and its encoding do not depend on the configuration. -/
theorem unit_row_of_standard {cfg : Config.Settings} {i : Instr} {u : List Byte} (hwf : WellFormed cfg i)
    (h : encode cfg i = .unit u) : WellFormed Config.standard i ∧ encode Config.standard i = .unit u := by
  cases i with
  | unitStart | unitCont | unitErr1Zeros | unitErr1Ones | unitErr2 | unitErr3 => exact ⟨hwf, h⟩
  | _ => cases h

/-- Settles O50: the row of a word encodes to it, and by the round trip no other row does. -/
theorem everyUnitWordHasOneReading : Obligations.EveryUnitWordHasOneReading := by
  unfold Obligations.EveryUnitWordHasOneReading
  intro cfg w
  refine ⟨decodeUnit_wellFormed cfg w, encode_decodeUnit cfg w, fun i hwf henc => ?_⟩
  obtain ⟨hwf, henc⟩ := unit_row_of_standard hwf henc
  have hback := roundTrip i Config.standard rfl hwf
  rw [henc, Laws.RoundTrip.decode_unit] at hback
  exact (Except.ok.inj hback).symm

/-- A buffer decodes to a well-formed format. -/
theorem decodeBuffer_wellFormed (cfg : Config.Settings) (b : List Byte) (e : Bool) :
    WellFormed cfg (decodeBuffer cfg b e) := by
  cases hc : classify cfg b with
  | health => rw [decodeBuffer_of_health hc]; rfl
  | info =>
    rw [decodeBuffer_of_info hc]
    obtain ⟨hb, -⟩ := classify_eq_info_iff.1 hc
    simp [WellFormed, wellFormed, infoSerial, slice, Config.serialLen, hb]
  | scanStartAck => rw [decodeBuffer_of_scanStartAck hc]; rfl
  | bootAnnouncement =>
    rw [decodeBuffer_of_bootAnnouncement hc]
    obtain ⟨hb, -⟩ := classify_eq_bootAnnouncement_iff.1 hc
    simp [WellFormed, wellFormed, bootTail, Config.bootLen, hb]
  | unrecognized =>
    by_cases hb : b.length = 256
    · rw [decodeBuffer_of_chunk hb]
      cases e <;> exact decide_eq_true hb
    · rw [decodeBuffer_of_unrecognized hc hb]
      exact decide_eq_true ⟨hc, hb⟩

/-- The bytes from offset `i` on: the byte there, then those after it. -/
theorem drop_eq_byteAt_cons {b : List Byte} {i : Nat} (h : i < b.length) : b.drop i = byteAt b i :: b.drop (i + 1) := by
  rw [List.drop_eq_getElem_cons h, byteAt, List.getD_eq_getElem _ _ h]

theorem healthBuf_fields {b : List Byte} (hb : b.length = 10) (hp : b.take 7 = Config.preHealth) :
    healthBuf (healthStatus b) (healthErrorCode b) = b := by
  have herr : leBytes 2 (healthErrorCode b).toNat = b.drop 8 := by
    have hlen : (b.drop 8).length = 2 := by simp [hb]
    have hlt := leValue_lt (b.drop 8)
    rw [hlen] at hlt
    have hval : (healthErrorCode b).toNat = leValue (b.drop 8) := by
      rw [healthErrorCode, memRead, slice, List.take_of_length_le hlen.le, BitVec.toNat_ofNat]
      exact Nat.mod_eq_of_lt hlt
    rw [hval, ← hlen, leBytes_leValue]
  rw [healthBuf, herr, ← hp, healthStatus, ← drop_eq_byteAt_cons (by omega), List.take_append_drop]

theorem infoBuf_fields {b : List Byte} (hb : b.length = 27) (hp : b.take 7 = Config.preInfo) :
    infoBuf (infoModel b) (infoFirmwareMinor b) (infoFirmwareMajor b) (infoHardware b) (infoSerial b) = b := by
  have hser : infoSerial b = b.drop 11 := by
    rw [infoSerial, slice, List.take_of_length_le (by simp [hb, Config.serialLen])]
  calc infoBuf (infoModel b) (infoFirmwareMinor b) (infoFirmwareMajor b) (infoHardware b) (infoSerial b)
      = b.take 7 ++ byteAt b 7 :: byteAt b 8 :: byteAt b 9 :: byteAt b 10 :: b.drop 11 := by
        rw [infoBuf, hser, hp, List.append_assoc]; rfl
    _ = b.take 7 ++ b.drop 7 := by
        rw [drop_eq_byteAt_cons (by omega : 7 < b.length), drop_eq_byteAt_cons (by omega : 8 < b.length),
          drop_eq_byteAt_cons (by omega : 9 < b.length), drop_eq_byteAt_cons (by omega : 10 < b.length)]
    _ = b := List.take_append_drop 7 b

/-- The format of a buffer encodes to the bytes of the buffer. -/
theorem encode_decodeBuffer_bytes (cfg : Config.Settings) (b : List Byte) (e : Bool) :
    (encode cfg (decodeBuffer cfg b e)).bytes = b := by
  cases hc : classify cfg b with
  | health =>
    obtain ⟨hb, hp⟩ := classify_eq_health_iff.1 hc
    rw [decodeBuffer_of_health hc]
    exact healthBuf_fields hb hp
  | info =>
    obtain ⟨hb, hp⟩ := classify_eq_info_iff.1 hc
    rw [decodeBuffer_of_info hc]
    exact infoBuf_fields hb hp
  | scanStartAck =>
    obtain ⟨hb, hp⟩ := classify_eq_scanStartAck_iff.1 hc
    rw [decodeBuffer_of_scanStartAck hc]
    exact hp.symm.trans (List.take_of_length_le hb.le)
  | bootAnnouncement =>
    obtain ⟨-, hp⟩ := classify_eq_bootAnnouncement_iff.1 hc
    rw [decodeBuffer_of_bootAnnouncement hc, encode, Encoded.bytes, bootBuf, bootTail]
    nth_rewrite 1 [← hp]
    exact List.take_append_drop _ b
  | unrecognized =>
    by_cases hb : b.length = 256
    · rw [decodeBuffer_of_chunk hb]
      cases e <;> rfl
    · rw [decodeBuffer_of_unrecognized hc hb]
      rfl

/-- Settles O51. -/
theorem everyBufferHasOneReading : Obligations.EveryBufferHasOneReading := by
  unfold Obligations.EveryBufferHasOneReading
  exact fun cfg b e => ⟨decodeBuffer_wellFormed cfg b e, encode_decodeBuffer_bytes cfg b e⟩

/-- Settles O52, by evaluation. -/
theorem wordsOfTheFormatsDecode : Obligations.WordsOfTheFormatsDecode := by
  unfold Obligations.WordsOfTheFormatsDecode
  exact ⟨rfl, rfl, rfl, rfl, rfl, rfl, rfl⟩

end Sys2Proof.Machine

/-! ### What a step can do

A step is an `RST`, or a change of one port with at most one operation behind it: what the ports change is said once
(`PortMove`), and so is what an operation leaves of the ports (`OpFrame`). The invariant, and that nothing waiting on
the event port or the TX stream is lost, follow from the two. -/

namespace Sys2Proof.Machine

open Safety

theorem exec_total (i : Instr) (s : State) : ∃ t, exec i s = .next t := by
  cases i with
  | rx b e => exact ⟨_, exec_rx b e s⟩
  | _ => exact ⟨_, rfl⟩

theorem step_of_quiet {s t : State} (h : s.move = .quiet t) : step s = .next t := by
  rw [step, h]

theorem step_of_run {s u : State} {i : Instr} (h : s.move = .run i u) : step s = exec i u := by
  rw [step, h]

/-- Settles O38: every arm of `exec` answers a next state, and a move that is no operation is one. -/
theorem nothingStopsTheBlock : Obligations.NothingStopsTheBlock := by
  unfold Obligations.NothingStopsTheBlock
  refine ⟨exec_total, fun s => ?_⟩
  cases hm : s.move with
  | quiet t => exact ⟨t, step_of_quiet hm⟩
  | run i u =>
    obtain ⟨t, ht⟩ := exec_total i u
    exact ⟨t, (step_of_run hm).trans ht⟩

/-- The operations that a port other than `rst` runs: transactions and pins, and no part of one by itself. -/
def isPortOp : Instr → Bool
  | .rx _ _ => true
  | .decode _ => true
  | .scanen _ => true
  | .resclr => true
  | i => isCkg i

/-- What the ports change in a state, before the operation that the change may complete. -/
inductive PortMove (s : State) : State → Prop
  | keep : PortMove s s
  | levels (scanEn evReady txReady : Bool) :
      PortMove s { s with scanEn := scanEn, evReady := evReady, txReady := txReady }
  | event : PortMove s s.transferEvent
  | txByte : PortMove s s.transferTx
  | rxStore (x : Byte) : PortMove s { s with rxBuf := s.rxPush x }
  | rxEnd : PortMove s { s with rxBuf := [] }
  | dcRun (c : List Byte) : PortMove s { s with dcBuf := c }
  | frame (r : FrameReq) (p : List Byte) (hp : p.length < r.len.toNat) :
      PortMove s { s with frame := some r, fpBuf := p }
  | frameEnd : PortMove s { s with frame := none, fpBuf := [] }
  | dropPayload : PortMove s { s with fpBuf := [] }
  | clear : PortMove s (s.setAcc Config.ckInit)

theorem portMove_driveLevels (a : Activity) (s : State) : PortMove s (s.driveLevels a) := by
  cases a with
  | scanEn level => exact .levels level s.evReady s.txReady
  | evReady level => exact .levels s.scanEn level s.txReady
  | txReady level => exact .levels s.scanEn s.evReady level
  | _ => exact .keep

/-- A move behind a change of a port: that change, or an operation run behind it. -/
def PortMoves (s : State) (m : Move) : Prop :=
  ∃ u, PortMove s u ∧ (m = .quiet u ∨ ∃ i, isPortOp i = true ∧ m = .run i u)

theorem PortMove.quiet {s u : State} (h : PortMove s u) : PortMoves s (.quiet u) :=
  ⟨u, h, .inl rfl⟩

theorem PortMove.run {s u : State} (h : PortMove s u) {i : Instr} (hi : isPortOp i = true) : PortMoves s (.run i u) :=
  ⟨u, h, .inr ⟨i, hi, rfl⟩⟩

theorem takePayload_of_none {s : State} (h : s.frame = none) (d : Byte) : s.takePayload d = .quiet s := by
  simp only [State.takePayload, h]

theorem takePayload_of_some {s : State} {r : FrameReq} (h : s.frame = some r) (d : Byte) :
    s.takePayload d =
      if s.fpBuf.length + 1 < r.len.toNat then .quiet { s with fpBuf := s.fpBuf ++ [d] }
      else .run (.framep r.op (s.fpBuf ++ [d])) { s with frame := none, fpBuf := [] } := by
  simp only [State.takePayload, h]

theorem takePayload_portMoves (d : Byte) (s : State) : PortMoves s (s.takePayload d) := by
  cases hr : s.frame with
  | none =>
    rw [takePayload_of_none hr]
    exact PortMove.keep.quiet
  | some r =>
    rw [takePayload_of_some hr]
    split_ifs with hlen
    · have hstore : PortMove s { s with frame := some r, fpBuf := s.fpBuf ++ [d] } := .frame r _ (by simpa using hlen)
      rw [← hr] at hstore
      exact hstore.quiet
    · exact PortMove.frameEnd.run rfl

/-- What the block does with an input other than `rst`. -/
theorem accept_portMoves (x : Input) (s : State) (hx : x.rst = false) : PortMoves s (s.accept x) := by
  obtain ⟨rst, a⟩ := x
  obtain rfl : rst = false := hx
  unfold State.accept
  simp only [Bool.false_eq_true, if_false]
  cases a with
  | idle => exact PortMove.keep.quiet
  | rxByte d last =>
    cases last with
    | true => exact PortMove.rxEnd.run rfl
    | false => exact (PortMove.rxStore d).quiet
  | dcByte d last =>
    cases last with
    | true => exact (PortMove.dcRun []).run rfl
    | false => exact (PortMove.dcRun _).quiet
  | dcEmpty => exact PortMove.keep.run rfl
  | frameReq op hasPayload len =>
    cases hasPayload with
    | false => exact PortMove.keep.run rfl
    | true =>
      dsimp only
      split_ifs with hlen
      · exact PortMove.dropPayload.run rfl
      · have hpos : 0 < len.toNat := Nat.pos_of_ne_zero fun h => hlen (BitVec.eq_of_toNat_eq h)
        exact (PortMove.frame ⟨op, len⟩ [] hpos).quiet
  | fpByte d => exact takePayload_portMoves d s
  | ckPins clr data =>
    cases clr with
    | false =>
      cases data with
      | none => exact PortMove.keep.quiet
      | some d => exact PortMove.keep.run rfl
    | true =>
      cases data with
      | none => exact PortMove.keep.run rfl
      | some d => exact PortMove.clear.run rfl
  | ckSum => exact PortMove.keep.run rfl
  | resClr =>
    dsimp only
    split_ifs
    · exact PortMove.keep.run rfl
    · exact PortMove.keep.quiet
  | scanEn level => exact PortMove.keep.run rfl
  | evReady level => exact (portMove_driveLevels (.evReady level) s).quiet
  | evTake => exact PortMove.event.quiet
  | txReady level => exact (portMove_driveLevels (.txReady level) s).quiet
  | txTake => exact PortMove.txByte.quiet

theorem accept_rst (x : Input) (s : State) (hx : x.rst = true) : s.accept x = .run .rst (s.driveLevels x.act) :=
  if_pos hx

/-- What the block turns to: an `RST` that it takes, or a change of a port with at most one operation behind it. -/
theorem move_inversion (s : State) :
    (∃ x rest, s.nextInput s.pending = some (x, rest) ∧ x.rst = true ∧
      s.move = .run .rst (State.driveLevels x.act { s with pending := rest })) ∨
    ∃ l, PortMoves { s with pending := l } s.move := by
  obtain ⟨-, -, -, hm⟩ | ⟨-, -, -, -, hm⟩ | ⟨-, hm⟩ | ⟨x, rest, hx, hm⟩ := move_cases s
  · exact .inr ⟨s.pending, hm ▸ PortMove.event.quiet⟩
  · exact .inr ⟨s.pending, hm ▸ PortMove.txByte.quiet⟩
  · exact .inr ⟨s.pending, hm ▸ PortMove.keep.quiet⟩
  · cases hr : x.rst with
    | true => exact .inl ⟨x, rest, hx, hr, hm.trans (accept_rst x _ hr)⟩
    | false => exact .inr ⟨rest, hm ▸ accept_portMoves x _ hr⟩

/-- What a step can do: the `RST` that it takes, or a change of a port with at most one operation behind it. -/
theorem step_inversion {s t : State} (h : step s = .next t) :
    (∃ x rest, s.nextInput s.pending = some (x, rest) ∧ x.rst = true ∧
      t = (State.driveLevels x.act { s with pending := rest }).resetBlock) ∨
    ∃ l u, PortMove { s with pending := l } u ∧ (t = u ∨ ∃ i, isPortOp i = true ∧ exec i u = .next t) := by
  obtain ⟨x, rest, hx, hr, hm⟩ | ⟨l, u, hu, hm | ⟨i, hi, hm⟩⟩ := move_inversion s
  · exact .inl ⟨x, rest, hx, hr, (Host.Outcome.next.inj ((step_of_run hm).symm.trans h)).symm⟩
  · exact .inr ⟨l, u, hu, .inl (Host.Outcome.next.inj ((step_of_quiet hm).symm.trans h)).symm⟩
  · exact .inr ⟨l, u, hu, .inr ⟨i, hi, (step_of_run hm).symm.trans h⟩⟩

/-- What an operation other than `RST` leaves of the ports: nothing received or stored changes, and what waits to leave
only grows at its end. -/
structure OpFrame (s t : State) : Prop where
  rxBuf : t.rxBuf = s.rxBuf
  frame : t.frame = s.frame
  fpBuf : t.fpBuf = s.fpBuf
  events : s.evOffer <+: t.evOffer
  bytes : s.txOffer <+: t.txOffer

theorem exec_opFrame {i : Instr} {s t : State} (hi : i ≠ .rst) (h : exec i s = .next t) : OpFrame s t := by
  cases i with
  | rst => exact absurd rfl hi
  | rx b e =>
    obtain rfl := Host.Outcome.next.inj ((exec_rx b e s).symm.trans h)
    exact ⟨rfl, rfl, rfl, List.prefix_append _ _, List.prefix_rfl⟩
  | decode c =>
    obtain rfl := Host.Outcome.next.inj ((exec_decode c s).symm.trans h)
    exact ⟨rfl, rfl, rfl, List.prefix_append _ _, List.prefix_rfl⟩
  | scanchunk b =>
    obtain rfl := Host.Outcome.next.inj ((exec_scanchunk b s).symm.trans h)
    exact ⟨rfl, rfl, rfl, List.prefix_append _ _, List.prefix_rfl⟩
  | health | info | scanack | boot =>
    obtain rfl := Host.Outcome.next.inj h
    exact ⟨rfl, rfl, rfl, List.prefix_append _ _, List.prefix_rfl⟩
  | unitStart | unitCont | unitErr1Zeros | unitErr1Ones | unitErr2 | unitErr3 =>
    obtain rfl := Host.Outcome.next.inj h
    rw [deliver_eq]
    exact ⟨rfl, rfl, rfl, List.prefix_append _ _, List.prefix_rfl⟩
  | frame2 | framep =>
    obtain rfl := Host.Outcome.next.inj h
    exact ⟨rfl, rfl, rfl, List.prefix_rfl, List.prefix_append _ _⟩
  | scandrop | unrec | ckclr | ckbyte | ckread | scanen | resclr =>
    obtain rfl := Host.Outcome.next.inj h
    exact ⟨rfl, rfl, rfl, List.prefix_rfl, List.prefix_rfl⟩

theorem ne_rst_of_isPortOp {i : Instr} (hi : isPortOp i = true) : i ≠ .rst := by
  rintro rfl
  cases hi

/-! #### The invariant -/

/-- A unit that passes has an angle within range (42_scan_unpacker.md R145). -/
theorem angleOk_of_unitResult {w : UnitWord} {x : Sample} (h : unitResult w = .ok x) : angleOk x.angleQ6 = true := by
  unfold unitResult unitCheck at h
  split_ifs at h with _ _ ha
  obtain rfl := Except.ok.inj h
  simpa using ha

theorem eventsOf_eventOk (ws : List UnitWord) : ∀ ev ∈ eventsOf ws, eventOk ev = true := by
  induction ws with
  | nil => simp [eventsOf]
  | cons w ws ih =>
    cases hw : unitResult w with
    | ok x =>
      rw [eventsOf_cons_ok hw]
      exact List.forall_mem_cons.2 ⟨angleOk_of_unitResult hw, ih⟩
    | error c =>
      rw [eventsOf_cons_error hw]
      exact List.forall_mem_singleton.2 rfl

theorem formatEvents_eventOk {cfg : Config.Settings} {i : Instr} (hwf : WellFormed cfg i) (res : List Byte) :
    ∀ ev ∈ formatEvents res i, eventOk ev = true := by
  cases i with
  | scanchunk b => exact eventsOf_eventOk _
  | info => exact List.forall_mem_singleton.2 hwf
  | health | scanack | boot => exact List.forall_mem_singleton.2 rfl
  | _ => exact fun _ h => absurd h List.not_mem_nil

/-- A port operation offers only events that can be produced after those that wait. -/
theorem exec_offers_eventOk {i : Instr} {s t : State} (hi : isPortOp i = true) (h : exec i s = .next t)
    (hs : ∀ ev ∈ s.evOffer, eventOk ev = true) : ∀ ev ∈ t.evOffer, eventOk ev = true := by
  cases i with
  | rx b e =>
    obtain rfl := Host.Outcome.next.inj ((exec_rx b e s).symm.trans h)
    exact List.forall_mem_append.2 ⟨hs, formatEvents_eventOk (decodeBuffer_wellFormed s.cfg b e) s.res⟩
  | decode c =>
    obtain rfl := Host.Outcome.next.inj ((exec_decode c s).symm.trans h)
    exact List.forall_mem_append.2 ⟨hs, eventsOf_eventOk _⟩
  | frame2 | framep | ckclr | ckbyte | ckread | scanen | resclr =>
    obtain rfl := Host.Outcome.next.inj h
    exact hs
  | _ => cases hi

theorem rxPush_length_le (x : Byte) (s : State) (h : s.rxBuf.length ≤ 257) : (s.rxPush x).length ≤ 257 := by
  unfold State.rxPush
  split_ifs with hx
  · rw [List.length_append]
    exact Nat.succ_le_succ hx
  · exact h

theorem PortMove.keeps_inv {s u : State} (hm : PortMove s u) (h : Inv s) : Inv u := by
  cases hm with
  | keep => exact h
  | levels => exact { h with }
  | event =>
    refine { h with offered := fun e he => h.offered e (List.mem_of_mem_tail he), delivered := ?_ }
    exact List.forall_mem_append.2 ⟨h.delivered, fun e he => h.offered e (List.mem_of_mem_take he)⟩
  | txByte => exact { h with }
  | rxStore x => exact { h with received := rxPush_length_le x s h.received }
  | rxEnd => exact { h with received := Nat.zero_le _ }
  | dcRun => exact { h with }
  | frame r p hp =>
    exact { h with
      framing := fun r' hr => Option.some.inj hr ▸ hp
      unframed := fun hn => absurd hn (Option.some_ne_none r) }
  | frameEnd =>
    exact { h with framing := fun _ hr => absurd hr.symm (Option.some_ne_none _), unframed := fun _ => rfl }
  | dropPayload =>
    exact { h with framing := fun r hr => Nat.zero_lt_of_lt (h.framing r hr), unframed := fun _ => rfl }
  | clear => exact { h with }

theorem exec_keeps_inv {i : Instr} {s t : State} (hi : isPortOp i = true) (hex : exec i s = .next t) (h : Inv s) :
    Inv t := by
  obtain ⟨hrx, hframe, hfp, -, -⟩ := exec_opFrame (ne_rst_of_isPortOp hi) hex
  obtain ⟨-, hev, -, -, -, hcfg⟩ := exec_keeps_environment i s t hex
  exact
    { configured := hcfg ▸ h.configured
      residue := (exec_residueMoves i s t hex).length_le h.residue
      received := hrx ▸ h.received
      framing := fun r hr => hfp ▸ h.framing r (hframe ▸ hr)
      unframed := fun hn => hfp ▸ h.unframed (hframe ▸ hn)
      offered := exec_offers_eventOk hi hex h.offered
      delivered := hev ▸ h.delivered }

theorem resetBlock_inv {s : State} (h : Inv s) : Inv s.resetBlock :=
  { configured := h.configured
    residue := Nat.zero_le _
    received := Nat.zero_le _
    framing := fun _ hr => absurd hr.symm (Option.some_ne_none _)
    unframed := fun _ => rfl
    offered := fun _ he => absurd he List.not_mem_nil
    delivered := h.delivered }

/-- The invariant does not speak of what the environment will present. -/
theorem inv_pending {s : State} (h : Inv s) (l : List Input) : Inv { s with pending := l } :=
  { h with }

/-- Settles O41: `RST`, a change of a port, and an operation that a port runs each keep the invariant. -/
theorem everyStepKeepsInvariant : Obligations.EveryStepKeepsInvariant := by
  unfold Obligations.EveryStepKeepsInvariant
  intro s t h hstep
  obtain ⟨x, rest, -, -, rfl⟩ | ⟨l, u, hu, hop⟩ := step_inversion hstep
  · exact resetBlock_inv ((portMove_driveLevels x.act _).keeps_inv (inv_pending h rest))
  · have hinv : Inv u := hu.keeps_inv (inv_pending h l)
    obtain rfl | ⟨i, hi, hex⟩ := hop
    · exact hinv
    · exact exec_keeps_inv hi hex hinv

/-- Settles O40, by evaluation. -/
theorem resetStateMeetsInvariant : Obligations.ResetStateMeetsInvariant := by
  unfold Obligations.ResetStateMeetsInvariant
  refine ⟨?_, rfl, rfl, rfl, rfl, rfl⟩
  exact
    { configured := rfl
      residue := Nat.zero_le _
      received := Nat.zero_le _
      framing := fun _ hr => absurd hr.symm (Option.some_ne_none _)
      unframed := fun _ => rfl
      offered := fun _ he => absurd he List.not_mem_nil
      delivered := fun _ he => absurd he List.not_mem_nil }

/-! #### What waits to leave -/

/-- Moving the first of what waits behind what has left keeps both in order. -/
theorem transfer_keeps_order {α : Type} (out offer : List α) : out ++ offer.take 1 ++ offer.tail = out ++ offer := by
  rw [List.append_assoc, ← List.drop_one, List.take_append_drop]

/-- No change of a port loses an event: a transfer moves the first one. -/
theorem PortMove.events {s u : State} (hm : PortMove s u) :
    u.evOut ++ u.evOffer = s.evOut ++ s.evOffer ∧ s.evOut <+: u.evOut := by
  cases hm with
  | event => exact ⟨transfer_keeps_order s.evOut s.evOffer, List.prefix_append _ _⟩
  | _ => exact ⟨rfl, List.prefix_rfl⟩

/-- No change of a port loses a frame byte: a transfer moves the first one. -/
theorem PortMove.bytes {s u : State} (hm : PortMove s u) :
    u.txOut ++ u.txOffer = s.txOut ++ s.txOffer ∧ s.txOut <+: u.txOut := by
  cases hm with
  | txByte => exact ⟨transfer_keeps_order s.txOut s.txOffer, List.prefix_append _ _⟩
  | _ => exact ⟨rfl, List.prefix_rfl⟩

theorem driveLevels_outputs (a : Activity) (s : State) :
    (s.driveLevels a).evOut = s.evOut ∧ (s.driveLevels a).txOut = s.txOut := by
  cases a <;> exact ⟨rfl, rfl⟩

/-- Settles O42: a change of a port keeps the events in order, and an operation appends to them. -/
theorem eventsLeaveOnceAndInOrder : Obligations.EventsLeaveOnceAndInOrder := by
  unfold Obligations.EventsLeaveOnceAndInOrder
  intro s t hstep
  obtain ⟨x, rest, hx, hr, rfl⟩ | ⟨l, u, hu, hop⟩ := step_inversion hstep
  · exact .inr ⟨⟨x, rest, hx, hr⟩, (driveLevels_outputs x.act _).1, rfl⟩
  · obtain ⟨hall, hout⟩ := hu.events
    obtain rfl | ⟨i, hi, hex⟩ := hop
    · exact .inl ⟨hall ▸ List.prefix_rfl, hout⟩
    · obtain ⟨-, hev, -⟩ := exec_keeps_environment i u t hex
      have hgrow : u.evOffer <+: t.evOffer := (exec_opFrame (ne_rst_of_isPortOp hi) hex).events
      exact .inl ⟨hev ▸ hall ▸ (List.prefix_append_right_inj _).2 hgrow, hev ▸ hout⟩

/-- Settles O44: as for the events. -/
theorem frameBytesLeaveOnceAndInOrder : Obligations.FrameBytesLeaveOnceAndInOrder := by
  unfold Obligations.FrameBytesLeaveOnceAndInOrder
  intro s t hstep
  obtain ⟨x, rest, hx, hr, rfl⟩ | ⟨l, u, hu, hop⟩ := step_inversion hstep
  · exact .inr ⟨⟨x, rest, hx, hr⟩, (driveLevels_outputs x.act _).2, rfl⟩
  · obtain ⟨hall, hout⟩ := hu.bytes
    obtain rfl | ⟨i, hi, hex⟩ := hop
    · exact .inl ⟨hall ▸ List.prefix_rfl, hout⟩
    · obtain ⟨-, -, htx, -⟩ := exec_keeps_environment i u t hex
      have hgrow : u.txOffer <+: t.txOffer := (exec_opFrame (ne_rst_of_isPortOp hi) hex).bytes
      exact .inl ⟨htx ▸ hall ▸ (List.prefix_append_right_inj _).2 hgrow, htx ▸ hout⟩

end Sys2Proof.Machine

/-! ### The checksum generator (40_checksum_generator.md) -/

namespace Sys2Proof.Machine

open Safety

/-- One `CKBYTE` per byte of a sequence folds the sequence into `ACC` (R94). -/
theorem runInstrs_ckbytes (q : List Byte) (is : List Instr) (s : State) :
    runInstrs (q.map .ckbyte ++ is) s = runInstrs is (s.setAcc (q.foldl ckFn s.acc)) := by
  induction q generalizing s with
  | nil => rfl
  | cons x q ih => exact ih (s.setAcc (ckFn s.acc x))

/-- Settles O1: the corner cases are those of xor. -/
theorem ckbyteFoldsOneByte : Obligations.CkbyteFoldsOneByte := by
  unfold Obligations.CkbyteFoldsOneByte
  intro x s
  have hzero : s.acc ^^^ 0x00 = s.acc := BitVec.xor_zero
  have hself : s.acc ^^^ s.acc = 0x00 := BitVec.xor_self
  have htwice : s.acc ^^^ x ^^^ x = s.acc := by simp
  refine ⟨rfl, ?_, ?_, ?_, fun rest hs hp => step_taken s hs _ rest hp rfl⟩
  · exact congrArg (fun a => Host.Outcome.next (s.setAcc a)) hzero
  · exact congrArg (fun a => Host.Outcome.next (s.setAcc a)) hself
  · exact (runInstrs_ckbytes [x, x] [] s).trans (congrArg (fun a => Host.Outcome.next (s.setAcc a)) htwice)

/-- Settles O2: the pins run `CKCLR`, and with a byte `CKBYTE` in the cleared state. -/
theorem ckclrClearsFirst : Obligations.CkclrClearsFirst := by
  unfold Obligations.CkclrClearsFirst
  exact fun s => ⟨rfl, fun rest hs hp => step_taken s hs _ rest hp rfl,
    fun x rest hs hp => step_taken s hs _ rest hp rfl⟩

/-- Settles O3: `CKCLR` starts the fold that the `CKBYTE`s go on with. -/
theorem ckreadReturnsChecksumOfSequence : Obligations.CkreadReturnsChecksumOfSequence := by
  unfold Obligations.CkreadReturnsChecksumOfSequence
  exact ⟨fun _ => rfl, fun q s => runInstrs_ckbytes q [.ckread] (s.setAcc Config.ckInit)⟩

/-- Settles O4: the two bytes of the frame as the TX stream carries them. -/
theorem frameWithoutPayload : Obligations.FrameWithoutPayload := by
  unfold Obligations.FrameWithoutPayload
  exact fun _ _ => rfl

/-- All that `FRAMEP` does (R96): its head and then the checksum of it go on the TX stream. -/
theorem exec_framep (op : Byte) (p : List Byte) (s : State) :
    exec (.framep op p) s =
      .next { s with
        txOffer := s.txOffer ++ ((framepHead op p).map (fun x => { data := x, last := false }) ++
          [{ data := ck (framepHead op p), last := true }]) } := by
  rw [← txBytes_snoc]
  rfl

/-- Settles O5. -/
theorem frameWithPayload : Obligations.FrameWithPayload := by
  unfold Obligations.FrameWithPayload
  exact fun op p s _ => exec_framep op p s

/-- The bytes of a frame on the TX stream are the frame's bytes. -/
theorem txBytes_data (f : List Byte) : (txBytes f).map TxByte.data = f := by
  fun_induction txBytes f with
  | case1 => rfl
  | case2 x => rfl
  | case3 x y r ih => rw [List.map_cons, ih]

/-- `tx_last` comes with the last byte and with no other (10_state.md R30). -/
theorem txBytes_last (f : List Byte) (k : Nat) :
    ((txBytes f).map TxByte.last).getD k false = true ↔ k + 1 = (txBytes f).length := by
  fun_induction txBytes f generalizing k with
  | case1 => simp
  | case2 x => cases k <;> simp
  | case3 x y r ih =>
    cases k with
    | zero =>
      have hpos : (txBytes (y :: r)).length = (y :: r).length := by
        rw [← congrArg List.length (txBytes_data (y :: r)), List.length_map]
      simp [hpos]
    | succ k => simpa using ih k

/-- Settles O6: the checksum behind the head cancels the fold of the head. -/
theorem sentFrameFoldsToZero : Obligations.SentFrameFoldsToZero := by
  unfold Obligations.SentFrameFoldsToZero
  intro op p s hp
  have hdata : (txBytes (framepBytes op p)).map TxByte.data = framepBytes op p := txBytes_data _
  have hlen : (BitVec.ofNat 8 p.length).toNat = p.length := by
    rw [BitVec.toNat_ofNat]
    omega
  refine ⟨txBytes (framepBytes op p), rfl, ?_, ?_, txBytes_last _⟩
  · rw [hdata]
    exact ck_append_self (framepHead op p)
  · rw [← List.length_map TxByte.data, hdata]
    simp [framepBytes, framepHead, hlen]
    omega

theorem ck_perm {x y : List Byte} (h : List.Perm x y) : ck x = ck y := by
  induction h with
  | nil => rfl
  | cons a _ ih => rw [ck_cons, ck_cons, ih]
  | swap a b q => rw [ck_cons, ck_cons, ck_cons, ck_cons, ← BitVec.xor_assoc, BitVec.xor_comm b a, BitVec.xor_assoc]
  | trans _ _ ih₁ ih₂ => exact ih₁.trans ih₂

/-- Settles O7: the fold is a sum of xors. -/
theorem checksumFoldLaws : Obligations.ChecksumFoldLaws := by
  unfold Obligations.ChecksumFoldLaws
  refine ⟨fun x y => ck_perm, ck_append, fun q => ?_, fun p q x k _ => ?_⟩
  · rw [ck_append, BitVec.xor_self]
    rfl
  · rw [ck_append, ck_append, ck_cons, ck_cons, BitVec.xor_comm x, BitVec.xor_assoc, BitVec.xor_comm (ck p),
      BitVec.xor_comm (ck p), BitVec.xor_assoc, BitVec.xor_comm]

end Sys2Proof.Machine

/-! ### The replies (41_response_classifier.md R113 to R118)

`RX` of a buffer is the format it decodes to (`exec_rx`), so a reply is reported by what CLASSIFY says of its bytes. -/

namespace Sys2Proof.Machine

open Safety

/-- An unrecognised buffer of another length than a chunk only shows class 0 (R118). -/
theorem exec_rx_unrec {b : List Byte} {s : State} (e : Bool) (h : classify s.cfg b = .unrecognized)
    (hb : b.length ≠ 256) : exec (.rx b e) s = .next { s with clsOut := s.clsOut ++ [.unrec] } :=
  (rx_unrecognized b e s h hb).2

/-- Settles O13: 27 bytes are INFO exactly with its preamble. -/
theorem infoBufferReported : Obligations.InfoBufferReported := by
  unfold Obligations.InfoBufferReported
  refine fun b e s => ⟨fun _ _ _ _ _ _ => rfl, fun hb hp => ?_, fun hb hp => ?_⟩
  · have hser : infoSerial b = b.drop 11 := List.take_of_length_le (by simp [hb, Config.serialLen])
    rw [exec_rx, decodeBuffer_of_info (classify_eq_info_iff.2 ⟨hb, hp⟩), hser]
    rfl
  · refine exec_rx_unrec e (classify_eq_unrecognized ?_ (fun _ => hp) ?_ ?_) ?_ <;> omega

/-- Settles O14: seven bytes are SCANACK exactly when they are its sequence. -/
theorem scanackReported : Obligations.ScanackReported := by
  unfold Obligations.ScanackReported
  refine fun b e s => ⟨rfl, ?_, fun hb hne => ?_, fun hb => ?_⟩
  · rw [exec_rx, decodeBuffer_of_scanStartAck (classify_eq_scanStartAck_iff.2 ⟨rfl, rfl⟩)]
    rfl
  · have hp : b.take 7 ≠ Config.seqAck := fun h => hne ((List.take_of_length_le hb.le).symm.trans h)
    refine exec_rx_unrec e (classify_eq_unrecognized ?_ ?_ (fun _ => hp) ?_) ?_ <;> omega
  · exact decodeBuffer_of_chunk (by simp [hb])

/-- 56 bytes that begin with `BOOT_PREFIX` are the boot announcement, with the rest as its tail (R115). -/
theorem decodeBuffer_boot {cfg : Config.Settings} {tail : List Byte} (e : Bool)
    (h : cfg.bootPrefix.length + tail.length = 56) : decodeBuffer cfg (cfg.bootPrefix ++ tail) e = .boot tail := by
  have hc : classify cfg (cfg.bootPrefix ++ tail) = .bootAnnouncement :=
    classify_eq_bootAnnouncement_iff.2 ⟨by rw [List.length_append, h], List.take_left⟩
  rw [decodeBuffer_of_bootAnnouncement hc, bootTail, List.drop_left]

theorem exec_rx_boot {tail : List Byte} {s : State} (e : Bool) (h : s.cfg.bootPrefix.length + tail.length = 56) :
    exec (.rx (s.cfg.bootPrefix ++ tail) e) s =
      .next { s with clsOut := s.clsOut ++ [.boot], evOffer := s.evOffer ++ [.boot] } := by
  rw [exec_rx, decodeBuffer_boot e h]
  rfl

/-- 56 bytes have the length of no reply but `BOOT`. -/
theorem exec_rx_no_boot {b : List Byte} {s : State} (e : Bool) (hb : b.length = 56)
    (hp : b.take s.cfg.bootPrefix.length ≠ s.cfg.bootPrefix) :
    exec (.rx b e) s = .next { s with clsOut := s.clsOut ++ [.unrec] } := by
  refine exec_rx_unrec e (classify_eq_unrecognized ?_ ?_ ?_ fun _ => hp) ?_ <;> omega

/-- Settles O15: 56 bytes are BOOT exactly when they begin with `BOOT_PREFIX`. -/
theorem bootReported : Obligations.BootReported := by
  unfold Obligations.BootReported
  refine fun tail e s =>
    ⟨fun h => ⟨rfl, decodeBuffer_boot e h, exec_rx_boot e h⟩, exec_rx_no_boot e, fun hcfg => ⟨?_, ?_⟩⟩
  · intro ht
    have hp : s.cfg.bootPrefix = [0x52, 0x50, 0x20, 0x4C, 0x49, 0x44, 0x41, 0x52] := by rw [hcfg]; rfl
    rw [← hp]
    exact exec_rx_boot e (by rw [hp, ht]; rfl)
  · intro ht
    refine exec_rx_no_boot e (by simp [ht]) ?_
    rw [hcfg]
    intro h
    have hthird : (0x4C : Byte) = 0x20 := congrArg (fun b => byteAt b 2) h
    exact absurd hthird (by decide)

/-- Settles O17: a dropped buffer is SCANDROP or UNREC, which show their class. -/
theorem droppedBuffersOnlyShowTheirClass : Obligations.DroppedBuffersOnlyShowTheirClass := by
  unfold Obligations.DroppedBuffersOnlyShowTheirClass
  refine fun b e s => ⟨fun hb => ⟨rfl, ?_⟩, fun hb hc => ⟨rfl, exec_rx_unrec e hc hb⟩, fun hb => ?_⟩
  · rw [exec_rx, decodeBuffer_of_chunk hb]
    exact congrArg Host.Outcome.next (respond_scandrop b s)
  · simp only [List.mem_cons, List.not_mem_nil, or_false, not_or] at hb
    exact exec_rx_unrec e (classify_other_length s.cfg b (by simp [hb])) (by omega)

/-- A recognised reply decodes to one format, whatever `scan_en` is, and that format neither reads nor writes the
residue. -/
theorem decodeBuffer_reply {cfg : Config.Settings} {b : List Byte} (h : classify cfg b ≠ .unrecognized) :
    ∃ i ev, (∀ e, decodeBuffer cfg b e = i) ∧ (∀ res, formatEvents res i = [ev]) ∧
      ∀ res, formatResidue res i = res := by
  cases hc : classify cfg b with
  | health => exact ⟨_, _, fun _ => decodeBuffer_of_health hc, fun _ => rfl, fun _ => rfl⟩
  | info => exact ⟨_, _, fun _ => decodeBuffer_of_info hc, fun _ => rfl, fun _ => rfl⟩
  | scanStartAck => exact ⟨_, _, fun _ => decodeBuffer_of_scanStartAck hc, fun _ => rfl, fun _ => rfl⟩
  | bootAnnouncement => exact ⟨_, _, fun _ => decodeBuffer_of_bootAnnouncement hc, fun _ => rfl, fun _ => rfl⟩
  | unrecognized => exact absurd hc h

/-- Settles O19: the format of a reply fixes its class and its event. -/
theorem repliesIndependentOfScan : Obligations.RepliesIndependentOfScan := by
  unfold Obligations.RepliesIndependentOfScan
  intro b s h
  obtain ⟨i, ev, hd, hev, hres⟩ := decodeBuffer_reply h
  refine ⟨by rw [exec_rx, exec_rx, hd, hd], formatClass i, ev, fun e s' hcfg => ?_⟩
  have hd' : decodeBuffer s'.cfg b e = i := hcfg ▸ hd e
  rw [exec_rx, hd', State.respond, hev, hres]

end Sys2Proof.Machine

/-! ### The scan unit (42_scan_unpacker.md R141 to R146)

The fields of a unit word as numbers, the four results of its three checks, and that the row a word decodes to delivers
the result of the word. -/

namespace Sys2Proof.Machine

open Safety

/-! #### Fields -/

section Fields

variable (w : UnitWord)

theorem flagS_iff : flagS w = true ↔ w.toNat % 2 = 1 := by
  simp [flagS, BitVec.getLsbD, Nat.testBit_eq_decide_div_mod_eq]

theorem flagNS_iff : flagNS w = true ↔ w.toNat / 2 % 2 = 1 := by
  simp [flagNS, BitVec.getLsbD, Nat.testBit_eq_decide_div_mod_eq]

theorem flagC_iff : flagC w = true ↔ w.toNat / 256 % 2 = 1 := by
  simp [flagC, BitVec.getLsbD, Nat.testBit_eq_decide_div_mod_eq]

theorem flagC_eq_false_iff : flagC w = false ↔ w.toNat / 256 % 2 = 0 := by
  rw [← Bool.not_eq_true, flagC_iff]
  omega

theorem fieldQ_toNat : (fieldQ w).toNat = w.toNat / 4 % 64 := by
  rw [fieldQ, BitVec.extractLsb'_toNat, Nat.shiftRight_eq_div_pow]

theorem fieldA_toNat : (fieldA w).toNat = w.toNat / 512 % 32768 := by
  rw [fieldA, BitVec.extractLsb'_toNat, Nat.shiftRight_eq_div_pow]

theorem fieldD_toNat : (fieldD w).toNat = w.toNat / 16777216 % 65536 := by
  rw [fieldD, BitVec.extractLsb'_toNat, Nat.shiftRight_eq_div_pow]

/-- The start pair is equal when the low two bits are both 0 or both 1. -/
theorem flagS_eq_flagNS_iff : flagS w = flagNS w ↔ w.toNat % 4 = 0 ∨ w.toNat % 4 = 3 := by
  rw [Bool.eq_iff_iff, flagS_iff, flagNS_iff]
  omega

theorem flagS_ne_flagNS_iff : flagS w ≠ flagNS w ↔ w.toNat % 4 = 1 ∨ w.toNat % 4 = 2 := by
  rw [Ne, flagS_eq_flagNS_iff]
  omega

end Fields

/-- A unit word is its five bytes, byte 0 least significant (20_memory.md R42). -/
theorem unitWord_toNat (u0 u1 u2 u3 u4 : Byte) :
    (unitWord [u0, u1, u2, u3, u4]).toNat =
      u0.toNat + 256 * u1.toNat + 65536 * u2.toNat + 16777216 * u3.toNat + 4294967296 * u4.toNat := by
  have := u0.isLt; have := u1.isLt; have := u2.isLt; have := u3.isLt; have := u4.isLt
  have hs : slice [u0, u1, u2, u3, u4] 0 5 = [u0, u1, u2, u3, u4] := rfl
  simp only [unitWord, memRead, hs, leValue, BitVec.toNat_ofNat]
  omega

theorem getLsbD_eq_of_mod {m n : Nat} {x : BitVec m} {y : BitVec n} {i j : Nat}
    (h : x.toNat / 2 ^ i % 2 = y.toNat / 2 ^ j % 2) : x.getLsbD i = y.getLsbD j := by
  simp only [BitVec.getLsbD, Nat.testBit_eq_decide_div_mod_eq, h]

/-- The exact value of a raw field of at most `m`, with `d` steps to the unit (00_scope.md R13). -/
theorem scaled_bounds {n m d : Nat} (h : n ≤ m) :
    (0 : Rat) ≤ (n : Rat) / (d : Rat) ∧ (n : Rat) / (d : Rat) ≤ (m : Rat) / (d : Rat) := by
  have hnm : (n : Rat) ≤ (m : Rat) := Nat.cast_le.2 h
  exact ⟨by positivity, by gcongr⟩

/-- Settles O20: the fields are digits of the word, and the word's digits are its bytes. -/
theorem unitFieldsFromBytes : Obligations.UnitFieldsFromBytes := by
  unfold Obligations.UnitFieldsFromBytes
  intro u0 u1 u2 u3 u4 w
  have hw : w.toNat = _ := unitWord_toNat u0 u1 u2 u3 u4
  have := u0.isLt; have := u1.isLt; have := u2.isLt; have := u3.isLt; have := u4.isLt
  have hQ : (fieldQ w).toNat = u0.toNat / 4 := by rw [fieldQ_toNat]; omega
  have hA : (fieldA w).toNat = u1.toNat / 2 + 128 * u2.toNat := by rw [fieldA_toNat]; omega
  have hD : (fieldD w).toNat = u3.toNat + 256 * u4.toNat := by rw [fieldD_toNat]; omega
  refine ⟨rfl, rfl, rfl, getLsbD_eq_of_mod (by omega), getLsbD_eq_of_mod (by omega), getLsbD_eq_of_mod (by omega),
    rfl, rfl, rfl, hQ, by omega, hA, by omega, hD, by omega, fun x hxa hxd => ?_⟩
  rw [← hA, ← hD, ← hxa, ← hxd]
  obtain ⟨ha0, ha1⟩ := scaled_bounds (n := x.angleQ6.toNat) (m := 32767) (d := 64) (by omega)
  obtain ⟨hd0, hd1⟩ := scaled_bounds (n := x.distQ2.toNat) (m := 65535) (d := 4) (by omega)
  exact ⟨rfl, ha0, ha1, rfl, hd0, hd1⟩

/-! #### Checks -/

section Checks

variable {s ns : Bool} {q : BitVec 6} {c : Bool} {a : BitVec 15} {d : BitVec 16}

theorem unitCheck_startPair (h : s = ns) : unitCheck s ns q c a d = .error .startPair := by
  simp [unitCheck, pairOk, h]

theorem unitCheck_checkBit (h : s ≠ ns) : unitCheck s ns q false a d = .error .checkBit := by
  simp [unitCheck, pairOk, checkOk, h]

theorem unitCheck_angleRange (h : s ≠ ns) (ha : 23040 < a.toNat) : unitCheck s ns q true a d = .error .angleRange := by
  have hbad : angleOk a = false := decide_eq_false (Nat.not_le_of_lt ha)
  simp [unitCheck, pairOk, checkOk, h, hbad]

theorem unitCheck_ok (h : s ≠ ns) (ha : a.toNat ≤ 23040) :
    unitCheck s ns q true a d = .ok { start := s, quality := q, angleQ6 := a, distQ2 := d } := by
  have hok : angleOk a = true := decide_eq_true ha
  simp [unitCheck, pairOk, checkOk, h, hok]

end Checks

/-- The result of a unit word, by the first check that fails (60_exceptions.md R190). -/
theorem unitResult_cases (w : UnitWord) :
    (flagS w = flagNS w ∧ unitResult w = .error .startPair) ∨
    (flagS w ≠ flagNS w ∧ flagC w = false ∧ unitResult w = .error .checkBit) ∨
    (flagS w ≠ flagNS w ∧ flagC w = true ∧ 23040 < (fieldA w).toNat ∧ unitResult w = .error .angleRange) ∨
    (flagS w ≠ flagNS w ∧ flagC w = true ∧ (fieldA w).toNat ≤ 23040 ∧
      unitResult w = .ok { start := flagS w, quality := fieldQ w, angleQ6 := fieldA w, distQ2 := fieldD w }) := by
  by_cases hp : flagS w = flagNS w
  · exact .inl ⟨hp, unitCheck_startPair hp⟩
  · cases hc : flagC w with
    | false => exact .inr (.inl ⟨hp, rfl, by rw [unitResult, hc]; exact unitCheck_checkBit hp⟩)
    | true =>
      by_cases ha : (fieldA w).toNat ≤ 23040
      · exact .inr (.inr (.inr ⟨hp, rfl, ha, by rw [unitResult, hc]; exact unitCheck_ok hp ha⟩))
      · have ha : 23040 < (fieldA w).toNat := Nat.lt_of_not_le ha
        exact .inr (.inr (.inl ⟨hp, rfl, ha, by rw [unitResult, hc]; exact unitCheck_angleRange hp ha⟩))

section Results

variable {w : UnitWord}

theorem unitResult_startPair_iff : unitResult w = .error .startPair ↔ flagS w = flagNS w := by
  obtain ⟨hp, hr⟩ | ⟨hp, -, hr⟩ | ⟨hp, -, -, hr⟩ | ⟨hp, -, -, hr⟩ := unitResult_cases w <;> simp [hr, hp]

theorem unitResult_checkBit_iff : unitResult w = .error .checkBit ↔ flagS w ≠ flagNS w ∧ flagC w = false := by
  obtain ⟨hp, hr⟩ | ⟨hp, hc, hr⟩ | ⟨-, hc, -, hr⟩ | ⟨-, hc, -, hr⟩ := unitResult_cases w
  · simp [hr, hp]
  all_goals simp [hr, hc]
  exact hp

theorem unitResult_angleRange_iff :
    unitResult w = .error .angleRange ↔ flagS w ≠ flagNS w ∧ flagC w = true ∧ 23040 < (fieldA w).toNat := by
  obtain ⟨hp, hr⟩ | ⟨hp, hc, hr⟩ | ⟨hp, hc, ha, hr⟩ | ⟨hp, hc, ha, hr⟩ := unitResult_cases w
  · simp [hr, hp]
  · simp [hr, hc]
  · simp [hr, hp, hc, ha]
  · simp [hr, ha]

theorem unitGood_iff : unitGood w = true ↔ flagS w ≠ flagNS w ∧ flagC w = true ∧ (fieldA w).toNat ≤ 23040 := by
  obtain ⟨hp, hr⟩ | ⟨hp, hc, hr⟩ | ⟨hp, hc, ha, hr⟩ | ⟨hp, hc, ha, hr⟩ := unitResult_cases w
  · simp [unitGood, hr, hp, Except.isOk, Except.toBool]
  · simp [unitGood, hr, hc, Except.isOk, Except.toBool]
  · simp [unitGood, hr, ha, Except.isOk, Except.toBool]
  · simp [unitGood, hr, hp, hc, ha, Except.isOk, Except.toBool]

end Results

/-- The row a word decodes to delivers the result of the word (log entry 4). -/
theorem exec_decodeUnit (w : UnitWord) (s : State) : exec (decodeUnit w) s = .next (s.deliver (unitResult w)) := by
  obtain ⟨hs, hn, hd⟩ | ⟨hs, hn, hd⟩ | ⟨hn, hc, hd⟩ | ⟨hn, hc, -, hd⟩ | ⟨hs, hn, hc, -, hd⟩ |
    ⟨hs, hn, hc, -, hd⟩ := decodeUnit_cases w
  · rw [hd, unitResult, hs, hn]; rfl
  · rw [hd, unitResult, hs, hn]; rfl
  · rw [hd, unitResult, hn, hc]; rfl
  · rw [hd, unitResult, hn, hc]; rfl
  · rw [hd, unitResult, hs, hn, hc]; rfl
  · rw [hd, unitResult, hs, hn, hc]; rfl

/-- The row of a word whose unit fails adds one ERROR event and changes nothing else. -/
theorem exec_decodeUnit_error {w : UnitWord} {c : Cause} (h : unitResult w = .error c) (s : State) :
    exec (decodeUnit w) s = .next { s with evOffer := s.evOffer ++ [.error c] } := by
  rw [exec_decodeUnit, h]
  rfl

/-- Settles O21: both flags are in byte 0, and every form with equal flags fails the first check. -/
theorem equalStartPairAlwaysFails : Obligations.EqualStartPairAlwaysFails := by
  unfold Obligations.EqualStartPairAlwaysFails
  refine ⟨?_, fun q c a d s => ⟨?_, ?_⟩⟩
  · intro u0 u1 u2 u3 u4 w
    have hw : w.toNat = _ := unitWord_toNat u0 u1 u2 u3 u4
    have hpair : flagS w = flagNS w ↔ u0.toNat % 4 = 0 ∨ u0.toNat % 4 = 3 := by
      rw [flagS_eq_flagNS_iff]
      omega
    exact ⟨hpair, unitResult_startPair_iff.trans hpair, fun h => exec_decodeUnit_error (unitResult_startPair_iff.2 h)⟩
  · exact congrArg (fun r => Host.Outcome.next (s.deliver r)) (unitCheck_startPair rfl)
  · exact congrArg (fun r => Host.Outcome.next (s.deliver r)) (unitCheck_startPair rfl)

/-- Settles O22: the check bit is the low bit of byte 1, and only the start pair is checked before it. -/
theorem clearCheckBitAlwaysFails : Obligations.ClearCheckBitAlwaysFails := by
  unfold Obligations.ClearCheckBitAlwaysFails
  refine ⟨?_, fun f q a d s => ?_⟩
  · intro u0 u1 u2 u3 u4 w
    have hw : w.toNat = _ := unitWord_toNat u0 u1 u2 u3 u4
    have hbit : flagC w = false ↔ u1.toNat % 2 = 0 := by
      rw [flagC_eq_false_iff]
      have := u0.isLt
      omega
    have hpair : flagS w ≠ flagNS w ↔ u0.toNat % 4 = 1 ∨ u0.toNat % 4 = 2 := by
      rw [flagS_ne_flagNS_iff]
      omega
    have hcause : unitResult w = .error .checkBit ↔ u1.toNat % 2 = 0 ∧ (u0.toNat % 4 = 1 ∨ u0.toNat % 4 = 2) := by
      rw [unitResult_checkBit_iff, hbit, hpair, and_comm]
    refine ⟨hbit, fun hclear => ?_, hcause, fun hclear hp => exec_decodeUnit_error (hcause.2 ⟨hclear, hp⟩)⟩
    by_cases hp : flagS w = flagNS w
    · exact ⟨_, unitResult_startPair_iff.2 hp⟩
    · exact ⟨_, unitResult_checkBit_iff.2 ⟨hp, hbit.2 hclear⟩⟩
  · exact congrArg (fun r => Host.Outcome.next (s.deliver r)) (unitCheck_checkBit (Bool.self_ne_not f))

/-- Settles O23: the angle is the last check. -/
theorem angleAboveFullCircleFails : Obligations.AngleAboveFullCircleFails := by
  unfold Obligations.AngleAboveFullCircleFails
  refine ⟨fun w hp hc => ⟨?_, fun ha => ?_⟩, fun f q a d s ha => ?_, rfl, rfl⟩
  · rw [unitResult_angleRange_iff]
    exact ⟨fun h => h.2.2, fun ha => ⟨hp, hc, ha⟩⟩
  · rw [unitResult, hc]
    exact unitCheck_ok hp ha
  · exact congrArg (fun r => Host.Outcome.next (s.deliver r)) (unitCheck_angleRange (Bool.self_ne_not f) ha)

/-- Settles O24: no check reads `Q` or `D`. -/
theorem everyQualityAndDistanceAccepted : Obligations.EveryQualityAndDistanceAccepted := by
  unfold Obligations.EveryQualityAndDistanceAccepted
  refine ⟨fun q a d s ha => ⟨?_, ?_⟩, fun w w' hs hn hc ha => ⟨?_, fun c => ?_⟩, rfl⟩
  · exact congrArg (fun r => Host.Outcome.next (s.deliver r)) (unitCheck_ok (by decide) ha)
  · exact congrArg (fun r => Host.Outcome.next (s.deliver r)) (unitCheck_ok (by decide) ha)
  · rw [unitGood_iff, unitGood_iff, hs, hn, hc, ha]
  · cases c with
    | startPair => rw [unitResult_startPair_iff, unitResult_startPair_iff, hs, hn]
    | checkBit => rw [unitResult_checkBit_iff, unitResult_checkBit_iff, hs, hn, hc]
    | angleRange => rw [unitResult_angleRange_iff, unitResult_angleRange_iff, hs, hn, hc, ha]

/-- The unit of the fixture encoder is checked on the fields it was encoded from (R152). -/
theorem unitResult_encUnit (f : Bool) (q : BitVec 6) (a : BitVec 15) (d : BitVec 16) :
    unitResult (unitWord (encUnit f q a d)) = unitCheck f (!f) q true a d := by
  rw [encUnit, unitWord_unitBytes, unitResult]
  simp

/-- Settles O25: packing and taking the fields are inverse. -/
theorem fixtureEncoderInvertsUnit : Obligations.FixtureEncoderInvertsUnit := by
  unfold Obligations.FixtureEncoderInvertsUnit
  refine ⟨fun f q a d => ?_, fun u x hu hx => ?_⟩
  · rw [unitResult_encUnit]
    split_ifs with ha
    · exact unitCheck_ok (Bool.self_ne_not f) ha
    · exact unitCheck_angleRange (Bool.self_ne_not f) (Nat.lt_of_not_le ha)
  · obtain ⟨-, hr⟩ | ⟨-, -, hr⟩ | ⟨-, -, -, hr⟩ | ⟨hp, hc, -, hr⟩ := unitResult_cases (unitWord u)
    · cases hr.symm.trans hx
    · cases hr.symm.trans hx
    · cases hr.symm.trans hx
    · obtain rfl := Except.ok.inj (hr.symm.trans hx)
      have hn : flagNS (unitWord u) = !flagS (unitWord u) := Bool.eq_not.2 hp.symm
      have hw := packUnit_fields (unitWord u)
      rw [hn, hc] at hw
      rw [encUnit, hw, unitBytes_unitWord u hu]

/-- Settles O26: the flags and the angle are digits of the word. -/
theorem unitWordsPartitioned : Obligations.UnitWordsPartitioned := by
  unfold Obligations.UnitWordsPartitioned
  intro w
  refine ⟨?_, fun hp => ?_, fun hp hc => ?_, fun hp hc ha => ?_⟩
  · rw [unitGood_iff, flagS_ne_flagNS_iff, flagC_iff, fieldA_toNat]
  · exact unitResult_startPair_iff.2 ((flagS_eq_flagNS_iff w).2 hp)
  · exact unitResult_checkBit_iff.2 ⟨(flagS_ne_flagNS_iff w).2 hp, (flagC_eq_false_iff w).2 hc⟩
  · exact unitResult_angleRange_iff.2 ⟨(flagS_ne_flagNS_iff w).2 hp, (flagC_iff w).2 hc, by rwa [fieldA_toNat]⟩

end Sys2Proof.Machine

/-! ### The ports (10_state.md R27 to R31, 43_host_control.md)

With no transfer possible a step is what the next input that is taken turns it to, behind the inputs that wait. -/

namespace Sys2Proof.Machine

open Safety

/-! #### Ready wires -/

section Ready

variable {s : State}

theorem rxReady_iff : s.rxReady = true ↔ s.evOffer = [] := by
  simp [State.rxReady, State.evValid]

theorem frReady_iff : s.frReady = true ↔ s.frame = none ∧ s.txOffer = [] := by
  simp [State.frReady, State.txValid]

theorem betweenTransactions_iff :
    s.betweenTransactions = true ↔ s.evOffer = [] ∧ s.frame = none ∧ s.txOffer = [] := by
  rw [State.betweenTransactions, Bool.and_eq_true, frReady_iff]
  simp [State.evValid]

theorem fpReady_iff : s.fpReady = true ↔ ∃ r, s.frame = some r ∧ s.fpBuf.length < r.len.toNat := by
  unfold State.fpReady
  cases s.frame <;> simp

/-- With no frame in progress no payload byte is taken. -/
theorem fpReady_eq_false (h : s.frame = none) : s.fpReady = false := by
  rw [State.fpReady, h]

theorem noTransfer_of_levels (hev : s.evReady = false) (htx : s.txCanLeave = false) : NoTransfer s :=
  ⟨by simp [State.evCanLeave, hev], htx⟩

end Ready

/-! #### The input that is taken, and those that wait -/

/-- What a step answers that makes this move. -/
def Move.outcome : Move → Host.Outcome State Fault Refusal
  | .quiet t => .next t
  | .run i t => exec i t

theorem step_eq_outcome (s : State) : step s = s.move.outcome := by
  cases h : s.move with
  | quiet t => exact step_of_quiet h
  | run i t => exact step_of_run h

/-- The move with other inputs to come. -/
def Move.withPending (l : List Input) : Move → Move
  | .quiet t => .quiet { t with pending := l }
  | .run i t => .run i { t with pending := l }

/-- A move answers the same whatever inputs are to come, and leaves them. -/
theorem outcome_withPending {m : Move} {l l' : List Input} {t : State} (h : (m.withPending l).outcome = .next t) :
    t.pending = l ∧ (m.withPending l').outcome = .next { t with pending := l' } := by
  cases m with
  | quiet u =>
    obtain rfl := Host.Outcome.next.inj h
    exact ⟨rfl, rfl⟩
  | run i u => exact ⟨(exec_keeps_environment i _ t h).1, exec_reads_no_pending i { u with pending := l } t l' h⟩

theorem takePayload_pending (d : Byte) (s : State) (l : List Input) :
    State.takePayload d { s with pending := l } = (s.takePayload d).withPending l := by
  obtain h | ⟨r, h⟩ := Option.eq_none_or_eq_some s.frame
  · rw [takePayload_of_none h, takePayload_of_none (s := { s with pending := l }) h]
    rfl
  · rw [takePayload_of_some h, takePayload_of_some (s := { s with pending := l }) h]
    split_ifs <;> rfl

/-- What the block does with an input does not depend on the inputs to come. -/
theorem accept_pending (x : Input) (s : State) (l : List Input) :
    State.accept x { s with pending := l } = (s.accept x).withPending l := by
  obtain ⟨rst, a⟩ := x
  unfold State.accept
  cases rst with
  | true => cases a <;> rfl
  | false =>
    simp only [Bool.false_eq_true, if_false]
    cases a with
    | idle | dcEmpty | ckSum | scanEn | evReady | evTake | txReady | txTake => rfl
    | rxByte d last => cases last <;> rfl
    | dcByte d last => cases last <;> rfl
    | frameReq op hasPayload len =>
      cases hasPayload with
      | false => rfl
      | true => dsimp only; split_ifs <;> rfl
    | fpByte d => exact takePayload_pending d s l
    | ckPins clr data => cases clr <;> cases data <;> rfl
    | resClr =>
      have hb : State.betweenTransactions { s with pending := l } = s.betweenTransactions := rfl
      dsimp only
      rw [hb]
      split_ifs <;> rfl

/-- Which input is taken does not depend on the inputs to come. -/
theorem nextInput_pending (s : State) (l l' : List Input) :
    State.nextInput { s with pending := l } l' = s.nextInput l' := by
  induction l' with
  | nil => rfl
  | cons x l' ih =>
    have ht : State.takes { s with pending := l } x = s.takes x := rfl
    rw [State.nextInput, State.nextInput, ih, ht]

section Waiting

variable {s : State} {l : List Input}

theorem noTransfer_pending (h : NoTransfer s) (l : List Input) : NoTransfer { s with pending := l } :=
  ⟨h.events, h.bytes⟩

/-- With no transfer possible a step is what the first input that is taken turns it to. -/
theorem step_of_nextInput_some (h : NoTransfer s) {x : Input} {r : List Input} (hn : s.nextInput l = some (x, r)) :
    step { s with pending := l } = ((s.accept x).withPending r).outcome := by
  have hm : State.move { s with pending := l } = State.accept x { s with pending := r } := by
    rw [move_takeInput _ (noTransfer_pending h _), State.takeInput, nextInput_pending, hn]
  rw [step_eq_outcome, hm, accept_pending]

/-- With no transfer possible and no input taken the block keeps its state (60_exceptions.md R201). -/
theorem step_of_nextInput_none (h : NoTransfer s) (hn : s.nextInput l = none) :
    step { s with pending := l } = .next { s with pending := l } := by
  apply step_of_quiet
  rw [move_takeInput _ (noTransfer_pending h _), State.takeInput, nextInput_pending, hn]

/-- An input that is not taken stays first, and the step does what it does without it (log entry 7). -/
theorem step_behind_waiting (h : NoTransfer s) {y : Input} (hy : s.takes y = false) {t : State}
    (ht : step { s with pending := l } = .next t) :
    step { s with pending := y :: l } = .next { t with pending := y :: t.pending } := by
  cases hn : s.nextInput l with
  | none =>
    obtain rfl := Host.Outcome.next.inj ((step_of_nextInput_none h hn).symm.trans ht)
    exact step_of_nextInput_none h (by simp [State.nextInput, hy, hn])
  | some p =>
    rw [step_of_nextInput_some h (x := p.1) (r := p.2) hn] at ht
    obtain ⟨hr, -⟩ := outcome_withPending (l' := []) ht
    rw [step_of_nextInput_some h (x := p.1) (r := y :: p.2) (by simp [State.nextInput, hy, hn]), hr]
    exact (outcome_withPending ht).2

/-- Alone it keeps the state, and before others it waits: an input that is not taken, as the obligations say it. -/
theorem step_waiting_head (h : NoTransfer s) {y : Input} {rest : List Input} (hy : s.takes y = false)
    (hp : s.pending = y :: rest) :
    (rest = [] → step s = .next s) ∧
      ∀ t, step { s with pending := rest } = .next t → step s = .next { t with pending := y :: t.pending } := by
  have hs : { s with pending := y :: rest } = s := by rw [← hp]
  refine ⟨?_, fun t ht => ?_⟩
  · rintro rfl
    rw [← hs]
    exact step_of_nextInput_none h (by simp [State.nextInput, hy])
  · have hstep := step_behind_waiting h hy ht
    rwa [hs] at hstep

/-- An input that is taken overtakes those that wait: `nextInput` leaves these in order. -/
theorem step_overtaking (h : NoTransfer s) {held : List Input} (hheld : ∀ y ∈ held, s.takes y = false) {x : Input}
    (hx : s.takes x = true) (rest : List Input) :
    step { s with pending := held ++ x :: rest } = step { s with pending := x :: (held ++ rest) } := by
  have hfirst : s.nextInput (x :: (held ++ rest)) = some (x, held ++ rest) :=
    nextInput_skip s [] x (held ++ rest) (by simp) hx
  rw [step_of_nextInput_some h (nextInput_skip s held x rest hheld hx), step_of_nextInput_some h hfirst]

end Waiting

/-- Settles O37. -/
theorem waitingInputsAreOvertaken : Obligations.WaitingInputsAreOvertaken := by
  unfold Obligations.WaitingInputsAreOvertaken
  intro s held h hheld
  exact ⟨fun x rest hx => step_overtaking h hheld hx rest, fun x hx => by simp [State.takes, hx],
    step_of_nextInput_none h (nextInput_none s held hheld)⟩

/-- Settles O46: the RX port and the direct port are ready only while no event waits. -/
theorem blockWaitsForEventConsumer : Obligations.BlockWaitsForEventConsumer := by
  unfold Obligations.BlockWaitsForEventConsumer
  intro s x last rest hev hready htx a ha
  have hno : s.rxReady = false := by rw [← Bool.not_eq_true, rxReady_iff]; exact hev
  have hy : s.takes (plain a) = false := by
    simp only [List.mem_cons, List.not_mem_nil, or_false] at ha
    obtain rfl | rfl | rfl := ha <;> exact hno
  have h := noTransfer_of_levels hready htx
  exact ⟨hy, fun hp => (step_waiting_head h hy hp).1 rfl, fun hp => (step_waiting_head h hy hp).2⟩

/-! #### Host control -/

/-- Settles O34: `RST` at the head is what the step turns to, whatever else is possible. -/
theorem rstRestoresReset : Obligations.RstRestoresReset := by
  unfold Obligations.RstRestoresReset
  refine fun s => ⟨rfl, rfl, fun a rest hp => ?_⟩
  rw [step_of_run (move_rst s _ rest hp rfl)]
  cases a <;> rfl

/-- `res_clr` between transactions is `RESCLR`. -/
theorem step_resClr {s : State} {rest : List Input} (h : NoTransfer s) (hp : s.pending = plain .resClr :: rest)
    (hb : s.betweenTransactions = true) : step s = exec .resclr { s with pending := rest } := by
  have ha : State.accept (plain .resClr) { s with pending := rest } = .run .resclr { s with pending := rest } :=
    if_pos hb
  rw [step_taken s h _ rest hp rfl, ha]

/-- `res_clr` during a transaction is ignored (43_host_control.md R173). -/
theorem step_resClr_ignored {s : State} {rest : List Input} (h : NoTransfer s) (hp : s.pending = plain .resClr :: rest)
    (hb : s.betweenTransactions = false) : step s = .next { s with pending := rest } := by
  have hne := Bool.eq_false_iff.1 hb
  have ha : State.accept (plain .resClr) { s with pending := rest } = .quiet { s with pending := rest } := if_neg hne
  rw [step_taken s h _ rest hp rfl, ha]

/-- Settles O35: `res_clr` acts exactly between transactions, and a level is driven always. -/
theorem resclrAndScanenEffects : Obligations.ResclrAndScanenEffects := by
  unfold Obligations.ResclrAndScanenEffects
  refine fun s => ⟨rfl, fun _ => rfl, fun rest h hp => ⟨fun hev hfr htx => ?_, fun hbusy => ?_⟩,
    fun level rest h hp => step_taken s h _ rest hp rfl⟩
  · exact step_resClr h hp (betweenTransactions_iff.2 ⟨hev, hfr, htx⟩)
  · refine step_resClr_ignored h hp ?_
    rw [← Bool.not_eq_true, betweenTransactions_iff]
    tauto

/-! #### The frame interface -/

section Frame

variable {s : State} {op len : Byte} {x : Byte} {rest : List Input}

theorem step_frameReq_frame2 (h : NoTransfer s) (hr : s.frReady = true)
    (hp : s.pending = plain (.frameReq op false len) :: rest) :
    step s = exec (.frame2 op) { s with pending := rest } :=
  step_taken s h _ rest hp hr

theorem step_frameReq_empty (h : NoTransfer s) (hr : s.frReady = true)
    (hp : s.pending = plain (.frameReq op true 0) :: rest) :
    step s = exec (.framep op []) { s with fpBuf := [], pending := rest } :=
  step_taken s h _ rest hp hr

theorem step_frameReq_payload (h : NoTransfer s) (hr : s.frReady = true) (hlen : len ≠ 0)
    (hp : s.pending = plain (.frameReq op true len) :: rest) :
    step s = .next { s with frame := some { op := op, len := len }, fpBuf := [], pending := rest } := by
  have ha : State.accept (plain (.frameReq op true len)) { s with pending := rest } =
      .quiet { s with frame := some { op := op, len := len }, fpBuf := [], pending := rest } := if_neg hlen
  rw [step_taken s h _ rest hp hr, ha]

variable {r : FrameReq}

theorem step_fpByte_store (h : NoTransfer s) (hr : s.frame = some r) (hlen : s.fpBuf.length + 1 < r.len.toNat)
    (hp : s.pending = plain (.fpByte x) :: rest) :
    step s = .next { s with fpBuf := s.fpBuf ++ [x], pending := rest } := by
  have ha : State.accept (plain (.fpByte x)) { s with pending := rest } =
      .quiet { s with fpBuf := s.fpBuf ++ [x], pending := rest } :=
    (takePayload_of_some (s := { s with pending := rest }) hr x).trans (if_pos hlen)
  rw [step_taken s h _ rest hp (fpReady_iff.2 ⟨r, hr, Nat.lt_of_succ_lt hlen⟩), ha]

theorem step_fpByte_last (h : NoTransfer s) (hr : s.frame = some r) (hlen : s.fpBuf.length + 1 = r.len.toNat)
    (hp : s.pending = plain (.fpByte x) :: rest) :
    step s = exec (.framep r.op (s.fpBuf ++ [x])) { s with frame := none, fpBuf := [], pending := rest } := by
  have ha : State.accept (plain (.fpByte x)) { s with pending := rest } =
      .run (.framep r.op (s.fpBuf ++ [x])) { s with frame := none, fpBuf := [], pending := rest } :=
    (takePayload_of_some (s := { s with pending := rest }) hr x).trans (if_neg hlen.not_lt)
  rw [step_taken s h _ rest hp (fpReady_iff.2 ⟨r, hr, hlen ▸ Nat.lt_succ_self _⟩), ha]

end Frame

/-- Settles O8: the two ready wires say what is taken, and what is not taken waits. -/
theorem frameRequestsTakeTheirPayload : Obligations.FrameRequestsTakeTheirPayload := by
  unfold Obligations.FrameRequestsTakeTheirPayload
  refine fun s => ⟨fun _ _ _ => frReady_iff, fpReady_iff, fun _ => rfl, fun h => ⟨?_, ?_, ?_, ?_⟩⟩
  · intro op hasPayload len rest hfr htx hp
    have hr : s.frReady = true := frReady_iff.2 ⟨hfr, htx⟩
    refine ⟨?_, ?_, ?_⟩
    · rintro rfl
      exact step_frameReq_frame2 h hr hp
    · rintro rfl rfl
      exact step_frameReq_empty h hr hp
    · rintro rfl hlen
      exact step_frameReq_payload h hr hlen hp
  · exact fun r x rest hr hp =>
      ⟨fun hlen => step_fpByte_store h hr hlen hp, fun hlen => step_fpByte_last h hr hlen hp⟩
  · intro op hasPayload len rest hbusy hp
    have hno : s.frReady = false := by
      rw [← Bool.not_eq_true, frReady_iff]
      tauto
    exact step_waiting_head h hno hp
  · exact fun x rest hno hp => step_waiting_head h hno hp

/-! #### Runs of steps -/

theorem runSteps_succ {s t : State} (h : step s = .next t) (k : Nat) : runSteps (k + 1) s = runSteps k t := by
  rw [runSteps, h]

theorem runSteps_one (s : State) : runSteps 1 s = step s := by
  rw [runSteps]
  cases step s <;> rfl

/-- The payload bytes that a frame in progress lacks, one a step, make it one `FRAMEP` (40_checksum_generator.md
R96). -/
theorem runSteps_payload (p : List Byte) (hne : p ≠ []) (r : FrameReq) (rest : List Input) (s : State)
    (h : NoTransfer s) (hr : s.frame = some r) (hlen : s.fpBuf.length + p.length = r.len.toNat)
    (hp : s.pending = payloadRun p ++ rest) :
    runSteps p.length s =
      exec (.framep r.op (s.fpBuf ++ p)) { s with frame := none, fpBuf := [], pending := rest } := by
  induction p generalizing s with
  | nil => exact absurd rfl hne
  | cons x p ih =>
    cases p with
    | nil => exact (runSteps_one s).trans (step_fpByte_last h hr hlen hp)
    | cons y p =>
      have hstore := step_fpByte_store (x := x) (rest := payloadRun (y :: p) ++ rest) h hr
        (by simp only [List.length_cons] at hlen; omega) hp
      rw [List.length_cons, runSteps_succ hstore]
      have hlen' : (s.fpBuf ++ [x]).length + (y :: p).length = r.len.toNat := by
        simp only [List.length_cons, List.length_append, List.length_nil] at hlen ⊢
        omega
      have hrest := ih (List.cons_ne_nil y p)
        { s with fpBuf := s.fpBuf ++ [x], pending := payloadRun (y :: p) ++ rest } ⟨h.events, h.bytes⟩ hr hlen' rfl
      simpa using hrest

/-- A request and then its payload, one a step, are one `FRAMEP` on exactly that payload (70_reset_and_hazards.md
R223). -/
theorem runSteps_frame (op : Byte) (p : List Byte) (rest : List Input) (s : State) (hlen : p.length ≤ 255)
    (h : NoTransfer s) (hfr : s.frame = none) (htx : s.txOffer = [])
    (hp : s.pending = plain (.frameReq op true (BitVec.ofNat 8 p.length)) :: (payloadRun p ++ rest)) :
    runSteps (p.length + 1) s = exec (.framep op p) { s with fpBuf := [], pending := rest } := by
  have hr : s.frReady = true := frReady_iff.2 ⟨hfr, htx⟩
  cases p with
  | nil => exact (runSteps_one s).trans (step_frameReq_empty h hr hp)
  | cons x p =>
    have hval : (BitVec.ofNat 8 (x :: p).length).toNat = (x :: p).length := by
      rw [BitVec.toNat_ofNat]
      omega
    have hne : BitVec.ofNat 8 (x :: p).length ≠ 0 := by
      intro h0
      rw [h0] at hval
      cases hval
    rw [runSteps_succ (step_frameReq_payload h hr hne hp)]
    refine Eq.trans (runSteps_payload (x :: p) (List.cons_ne_nil x p) ⟨op, BitVec.ofNat 8 (x :: p).length⟩ rest _
      ⟨h.events, h.bytes⟩ rfl (by rw [hval]; simp) rfl) ?_
    rw [← hfr]
    rfl

/-- Settles O9: bytes before their request wait, so that the first step takes the request in either order. -/
theorem frameRunTakesExactlyItsPayload : Obligations.FrameRunTakesExactlyItsPayload := by
  unfold Obligations.FrameRunTakesExactlyItsPayload
  intro op p excess rest s hlen h hfr htx
  have hrun : payloadRun (p ++ excess) ++ rest = payloadRun p ++ (payloadRun excess ++ rest) := by
    simp [payloadRun]
  rw [Nat.add_comm 1]
  refine ⟨fun hp => ?_, fun hp => ?_⟩
  · exact runSteps_frame op p _ s hlen h hfr htx (by rw [hp, List.cons_append, hrun])
  · have hwait : ∀ y ∈ payloadRun (p ++ excess), s.takes y = false := by
      intro y hy
      obtain ⟨x, -, rfl⟩ := List.mem_map.1 hy
      exact (fpReady_eq_false hfr : s.fpReady = false)
    have hover := step_overtaking h hwait (x := plain (.frameReq op true (BitVec.ofNat 8 p.length)))
      (frReady_iff.2 ⟨hfr, htx⟩) rest
    rw [← hp] at hover
    rw [runSteps, hover, ← runSteps, hrun]
    exact runSteps_frame op p (payloadRun excess ++ rest) _ hlen ⟨h.events, h.bytes⟩ hfr htx rfl

/-! #### Transfers -/

theorem step_transferEvent {s : State} (hr : s.rstNow = false) (hc : s.evCanLeave = true) :
    step s = .next s.transferEvent :=
  step_of_quiet (by simp [State.move, hr, hc])

theorem step_transferTx {s : State} (hr : s.rstNow = false) (he : s.evCanLeave = false) (hc : s.txCanLeave = true) :
    step s = .next s.transferTx :=
  step_of_quiet (by simp [State.move, hr, he, hc])

/-- With the consumer ready and no `RST` every waiting event leaves, one a step. -/
theorem runSteps_drainEvents {s : State} {q : List Event} (hq : s.evOffer = q) (hev : s.evReady = true)
    (hr : s.rstNow = false) : runSteps q.length s = .next { s with evOffer := [], evOut := s.evOut ++ q } := by
  induction q generalizing s with
  | nil =>
    rw [List.length_nil, runSteps, List.append_nil, ← hq]
  | cons e q ih =>
    have hc : s.evCanLeave = true := by simp [State.evCanLeave, State.evValid, hev, hq]
    rw [List.length_cons, runSteps_succ (step_transferEvent hr hc), ih (s := s.transferEvent) (by simp [hq]) hev hr]
    simp [State.transferEvent, hq]

/-- With the consumer ready, no `RST` and no event that can leave, every waiting frame byte leaves, one a step. -/
theorem runSteps_drainBytes {s : State} {q : List TxByte} (hq : s.txOffer = q) (htx : s.txReady = true)
    (hr : s.rstNow = false) (he : s.evCanLeave = false) :
    runSteps q.length s = .next { s with txOffer := [], txOut := s.txOut ++ q } := by
  induction q generalizing s with
  | nil =>
    rw [List.length_nil, runSteps, List.append_nil, ← hq]
  | cons x q ih =>
    have hc : s.txCanLeave = true := by simp [State.txCanLeave, State.txValid, htx, hq]
    rw [List.length_cons, runSteps_succ (step_transferTx hr he hc), ih (s := s.transferTx) (by simp [hq]) htx hr he]
    simp [State.transferTx, hq]

/-- Settles O43: the drain, and the pin inputs with no transfer possible. -/
theorem waitingEventsDrain : Obligations.WaitingEventsDrain := by
  unfold Obligations.WaitingEventsDrain
  refine fun s => ⟨runSteps_drainEvents rfl, fun htx => ⟨fun x q rest hev hq hp => ?_, fun rest hq hp => ?_,
    fun level rest hev hp => step_taken s ⟨hev, htx⟩ _ rest hp rfl⟩⟩
  · rw [step_taken s (noTransfer_of_levels hev htx) _ rest hp rfl]
    simp [State.accept, plain, State.transferEvent, hq]
  · have hev : s.evCanLeave = false := by simp [State.evCanLeave, State.evValid, hq]
    rw [step_taken s ⟨hev, htx⟩ _ rest hp rfl]
    simp [State.accept, plain, State.transferEvent, hq]

/-- Settles O45: the drain, and the pin inputs with no transfer possible. -/
theorem waitingFrameBytesDrain : Obligations.WaitingFrameBytesDrain := by
  unfold Obligations.WaitingFrameBytesDrain
  refine fun s hev => ⟨fun htx hr => runSteps_drainBytes rfl htx hr hev, fun x q rest htx hq hp => ?_,
    fun rest hq hp => ?_, fun level rest htx hp => step_taken s ⟨hev, htx⟩ _ rest hp rfl⟩
  · have htx : s.txCanLeave = false := by simp [State.txCanLeave, htx]
    rw [step_taken s ⟨hev, htx⟩ _ rest hp rfl]
    simp [State.accept, plain, State.transferTx, hq]
  · have htx : s.txCanLeave = false := by simp [State.txCanLeave, State.txValid, hq]
    rw [step_taken s ⟨hev, htx⟩ _ rest hp rfl]
    simp [State.accept, plain, State.transferTx, hq]

/-! #### Runs on the RX port and the direct port -/

section Runs

variable {s : State} {x : Byte} {rest : List Input}

theorem step_rxByte_store (h : NoTransfer s) (hev : s.evOffer = []) (hp : s.pending = plain (.rxByte x false) :: rest) :
    step s = .next { s with rxBuf := s.rxPush x, pending := rest } :=
  step_taken s h _ rest hp (rxReady_iff.2 hev)

theorem step_dcByte_store (h : NoTransfer s) (hev : s.evOffer = []) (hp : s.pending = plain (.dcByte x false) :: rest) :
    step s = .next { s with dcBuf := s.dcBuf ++ [x], pending := rest } :=
  step_taken s h _ rest hp (rxReady_iff.2 hev)

theorem step_dcByte_last (h : NoTransfer s) (hev : s.evOffer = []) (hp : s.pending = plain (.dcByte x true) :: rest) :
    step s = exec (.decode (s.dcBuf ++ [x])) { s with dcBuf := [], pending := rest } :=
  step_taken s h _ rest hp (rxReady_iff.2 hev)

theorem step_dcEmpty (h : NoTransfer s) (hev : s.evOffer = []) (hp : s.pending = plain .dcEmpty :: rest) :
    step s = exec (.decode []) { s with pending := rest } :=
  step_taken s h _ rest hp (rxReady_iff.2 hev)

end Runs

/-- A pin runs the operation it decodes to. -/
theorem step_pin {s : State} {p : Pin} {rest : List Input} (h : NoTransfer s)
    (hclr : p = .resClr → s.evOffer = [] ∧ s.frame = none ∧ s.txOffer = []) (hrst : p ≠ .rst)
    (hp : s.pending = plain (pinActivity p) :: rest) : step s = exec (decodePin p) { s with pending := rest } := by
  cases p with
  | rst => exact absurd rfl hrst
  | resClr => exact step_resClr h hp (betweenTransactions_iff.2 (hclr rfl))
  | ckClr | ckData | ckSum | scanEn => exact step_taken s h _ rest hp rfl

/-- Settles O36: one step lemma per port. -/
theorem stepRunsPresentedOperation : Obligations.StepRunsPresentedOperation := by
  unfold Obligations.StepRunsPresentedOperation
  intro s a rest h hp
  refine ⟨fun hev => ⟨?_, ?_, ?_, ?_, ?_⟩, ?_, ?_, ?_, ?_⟩
  · rintro x rfl hlen
    have hrx := step_rxByte_last x rest s h hev hlen hp
    exact ⟨hrx, hrx.trans (execRx_decodeBuffer _ _ _)⟩
  · rintro x rfl hlen
    have hpush : s.rxPush x = s.rxBuf ++ [x] := if_pos hlen
    rw [step_rxByte_store h hev hp, hpush]
  · rintro x rfl
    exact step_dcByte_last h hev hp
  · rintro x rfl
    exact step_dcByte_store h hev hp
  · rintro rfl
    exact step_dcEmpty h hev hp
  · rintro p i hrst hclr hi rfl
    obtain rfl := Except.ok.inj hi
    exact step_pin h hclr hrst hp
  · rintro op len rfl hfr htx
    exact step_frameReq_frame2 h (frReady_iff.2 ⟨hfr, htx⟩) hp
  · rintro x r rfl hr hlen
    exact step_fpByte_last h hr hlen hp
  · rintro (rfl | rfl)
    · exact step_taken s h _ rest hp rfl
    · exact step_taken s h _ rest hp rfl

/-- A buffer cut to 257 bytes is the same reply, or `UNREC` as the whole is (decision D20). -/
theorem exec_rx_saturated (b : List Byte) (e : Bool) (s : State) : exec (.rx (b.take 257) e) s = exec (.rx b e) s := by
  by_cases hb : b.length ≤ 257
  · rw [List.take_of_length_le hb]
  · have hlong : ∀ c : List Byte, 257 ≤ c.length →
        exec (.rx c e) s = .next { s with clsOut := s.clsOut ++ [.unrec] } := fun c hc =>
      exec_rx_unrec e (classify_other_length s.cfg c (by
        simp only [List.mem_cons, List.not_mem_nil, or_false, not_or]; omega)) (by omega)
    rw [hlong b (by omega), hlong (b.take 257) (by rw [List.length_take]; omega)]

/-- The bytes received so far are the first 257 of those that came (10_state.md R32). -/
theorem rxPush_take {s : State} {p : List Byte} (hs : s.rxBuf = p.take 257) (x : Byte) :
    s.rxPush x = (p ++ [x]).take 257 := by
  unfold State.rxPush
  rw [hs, List.length_take]
  split_ifs with hlen
  · have hp : p.length ≤ 256 := by simp only [Config.rxMax] at hlen; omega
    rw [List.take_of_length_le (by omega), List.take_of_length_le (by simp; omega)]
  · have hp : 257 ≤ p.length := by simp only [Config.rxMax] at hlen; omega
    rw [List.take_append_of_le_length hp]

/-- The rest `b` of a run behind the bytes `p` is, one byte a step, one `RX` of the whole (10_state.md R27). -/
theorem runSteps_rxRun (b : List Byte) (hne : b ≠ []) (p : List Byte) (rest : List Input) (s : State)
    (h : NoTransfer s) (hev : s.evOffer = []) (hs : s.rxBuf = p.take 257) (hp : s.pending = rxRun b ++ rest) :
    runSteps b.length s = exec (.rx (p ++ b) s.scanEn) { s with rxBuf := [], pending := rest } := by
  induction b generalizing p s with
  | nil => exact absurd rfl hne
  | cons x b ih =>
    cases b with
    | nil =>
      have hlast : step s = exec (.rx (s.rxPush x) s.scanEn) { s with rxBuf := [], pending := rest } :=
        step_taken s h _ rest hp (rxReady_iff.2 hev)
      exact (runSteps_one s).trans (hlast.trans (by rw [rxPush_take hs, exec_rx_saturated]))
    | cons y b =>
      rw [List.length_cons, runSteps_succ (step_rxByte_store h hev hp), List.append_cons]
      exact ih (List.cons_ne_nil y b) (p ++ [x]) _ ⟨h.events, h.bytes⟩ hev (rxPush_take hs x) rfl

/-- Settles O47. -/
theorem rxRunIsOneTransaction : Obligations.RxRunIsOneTransaction := by
  unfold Obligations.RxRunIsOneTransaction
  intro b rest s hne h hev hrx hp
  have hs : { s with rxBuf := [], pending := rest } = { s with pending := rest } := by rw [← hrx]
  have hrun := runSteps_rxRun b hne [] rest s h hev hrx hp
  rwa [hs] at hrun

/-! #### Who writes what -/

/-- An operation that is not among the writers of `ACC` keeps it (10_state.md R20). -/
theorem exec_keeps_acc {i : Instr} {s t : State} (hw : writesAcc i = false) (h : exec i s = .next t) :
    t.acc = s.acc := by
  cases i with
  | ckclr | ckbyte | rst => cases hw
  | rx b e =>
    obtain rfl := Host.Outcome.next.inj ((exec_rx b e s).symm.trans h)
    rfl
  | decode c =>
    obtain rfl := Host.Outcome.next.inj ((exec_decode c s).symm.trans h)
    rfl
  | scanchunk b =>
    obtain rfl := Host.Outcome.next.inj ((exec_scanchunk b s).symm.trans h)
    rfl
  | unitStart | unitCont | unitErr1Zeros | unitErr1Ones | unitErr2 | unitErr3 =>
    obtain rfl := Host.Outcome.next.inj h
    rw [deliver_eq]
  | health | info | scanack | boot | scandrop | unrec | frame2 | framep | ckread | scanen | resclr =>
    obtain rfl := Host.Outcome.next.inj h
    rfl

/-- The checksum generator does not use the residue. -/
theorem exec_ckg_reads_no_residue {i : Instr} {s t : State} (hi : isCkg i = true) (h : exec i s = .next t)
    (r : List Byte) : exec i { s with res := r } = .next { t with res := r } := by
  cases i with
  | ckclr | ckbyte | ckread | frame2 | framep =>
    obtain rfl := Host.Outcome.next.inj h
    rfl
  | _ => cases hi

/-- The classifier, the unpacker and host control do not use `ACC`. -/
theorem exec_reads_no_acc {i : Instr} {s t : State} (hi : isCkg i = false) (hrst : i ≠ .rst) (h : exec i s = .next t)
    (a : Byte) : exec i { s with acc := a } = .next { t with acc := a } := by
  cases i with
  | ckclr | ckbyte | ckread | frame2 | framep => cases hi
  | rst => exact absurd rfl hrst
  | rx b e =>
    obtain rfl := Host.Outcome.next.inj ((exec_rx b e s).symm.trans h)
    exact exec_rx b e _
  | decode c =>
    obtain rfl := Host.Outcome.next.inj ((exec_decode c s).symm.trans h)
    exact exec_decode c _
  | scanchunk b =>
    obtain rfl := Host.Outcome.next.inj ((exec_scanchunk b s).symm.trans h)
    exact exec_scanchunk b _
  | unitStart | unitCont | unitErr1Zeros | unitErr1Ones | unitErr2 | unitErr3 =>
    obtain rfl := Host.Outcome.next.inj h
    rw [deliver_eq]
    exact congrArg Host.Outcome.next (deliver_eq _ _)
  | health | info | scanack | boot | scandrop | unrec | scanen | resclr =>
    obtain rfl := Host.Outcome.next.inj h
    rfl

/-- Settles O48. -/
theorem checksumAndUnpackerShareNothing : Obligations.ChecksumAndUnpackerShareNothing := by
  unfold Obligations.ChecksumAndUnpackerShareNothing
  exact fun i s t h => ⟨fun hw => exec_keeps_residue i s t hw h, fun hw => exec_keeps_acc hw h,
    fun hi r => exec_ckg_reads_no_residue hi h r, fun hi hrst a => exec_reads_no_acc hi hrst h a⟩

end Sys2Proof.Machine

/-! ### Chunks and the residue (42_scan_unpacker.md R147 to R156)

The units of a byte sequence run along its five-byte groups: one induction over these, and what cutting a sequence does
to its units and to its trailing bytes. -/

namespace Sys2Proof.Machine

open Safety

/-- Induction over the complete units of a byte sequence. -/
theorem unit_induction {P : List Byte → Prop} (short : ∀ q : List Byte, q.length < 5 → P q)
    (long : ∀ q : List Byte, 5 ≤ q.length → P (q.drop 5) → P q) (q : List Byte) : P q := by
  induction hn : q.length using Nat.strong_induction_on generalizing q with
  | _ n ih =>
    by_cases h : q.length < 5
    · exact short q h
    · exact long q (Nat.le_of_not_lt h) (ih (q.drop 5).length (by rw [List.length_drop]; omega) (q.drop 5) rfl)

theorem trailing_long {q : List Byte} (h : 5 ≤ q.length) : trailing q = trailing (q.drop 5) := by
  simp only [trailing, unitCount, Config.unitBytes, List.drop_drop, List.length_drop]
  congr 1
  omega

/-- The units of a sequence cut in two: those of the first part, then those of its trailing bytes and the second. -/
theorem unitsOf_append (p q : List Byte) : unitsOf (p ++ q) = unitsOf p ++ unitsOf (trailing p ++ q) := by
  induction p using unit_induction with
  | short p h => rw [unitsOf_short p h, trailing_short p h, List.nil_append]
  | long p h ih =>
    rw [unitsOf_long (p ++ q) (by rw [List.length_append]; omega), unitsOf_long p h, trailing_long h,
      List.take_append_of_le_length h, List.drop_append_of_le_length h, ih, List.cons_append]

theorem trailing_append (p q : List Byte) : trailing (p ++ q) = trailing (trailing p ++ q) := by
  induction p using unit_induction with
  | short p h => rw [trailing_short p h]
  | long p h ih =>
    rw [trailing_long (q := p ++ q) (by rw [List.length_append]; omega), List.drop_append_of_le_length h, ih,
      trailing_long h]

/-- The trailing bytes are at most four, so the last four of what was appended fix them. -/
theorem trailing_append_congr {r c c' : List Byte} (hlen : c.length = c'.length)
    (hlast : c.drop (c.length - 4) = c'.drop (c'.length - 4)) : trailing (r ++ c) = trailing (r ++ c') := by
  by_cases h4 : c.length ≤ 4
  · have h0 : c.length - 4 = 0 := by omega
    have h0' : c'.length - 4 = 0 := by omega
    rw [h0, h0'] at hlast
    rw [show c = c' from hlast]
  · have hle : r.length + (c.length - 4) ≤ 5 * ((r ++ c).length / 5) := by
      rw [List.length_append]
      omega
    obtain ⟨k, hk⟩ := Nat.exists_eq_add_of_le hle
    rw [Nat.add_assoc] at hk
    have hk' : 5 * ((r ++ c').length / 5) = r.length + (c'.length - 4 + k) := by
      rw [List.length_append] at hk ⊢
      rw [← hlen, hk]
    have hdrop : ∀ d : List Byte, (r ++ d).drop (r.length + (d.length - 4 + k)) = (d.drop (d.length - 4)).drop k := by
      intro d
      rw [List.drop_drop, List.drop_length_add_append]
    simp only [trailing, unitCount, Config.unitBytes]
    rw [hk, hk', hdrop, hdrop, hlast]

/-- Settles O28: the residue is the trailing bytes of the combined buffer, which no result of a unit enters. -/
theorem residueCommittedWhateverFails : Obligations.ResidueCommittedWhateverFails := by
  unfold Obligations.ResidueCommittedWhateverFails
  intro c c' s hlen hlast
  refine ⟨_, _, exec_decode c s, exec_decode c' s, trailing_append_congr hlen hlast, ?_, List.drop_suffix _ _⟩
  rw [trailing_length, List.length_append]

/-! #### Streams without malformed units -/

theorem unitGood_iff_ok {w : UnitWord} : unitGood w = true ↔ ∃ x, unitResult w = .ok x := by
  unfold unitGood
  cases unitResult w <;> simp [Except.isOk, Except.toBool]

/-- While no unit fails every unit gives its own event, a sample. -/
theorem eventsOf_append_of_good {ws : List UnitWord} (h : ∀ w ∈ ws, unitGood w = true) (ws' : List UnitWord) :
    eventsOf (ws ++ ws') = eventsOf ws ++ eventsOf ws' := by
  induction ws with
  | nil => rfl
  | cons w ws ih =>
    obtain ⟨hw, hws⟩ := List.forall_mem_cons.1 h
    obtain ⟨x, hx⟩ := unitGood_iff_ok.1 hw
    rw [List.cons_append, eventsOf_cons_ok hx, eventsOf_cons_ok hx, ih hws, List.cons_append]

theorem eventsOf_of_good {ws : List UnitWord} (h : ∀ w ∈ ws, unitGood w = true) :
    (eventsOf ws).length = ws.length ∧ ∀ ev ∈ eventsOf ws, ∃ x, ev = .data x := by
  induction ws with
  | nil => simp [eventsOf]
  | cons w ws ih =>
    obtain ⟨hw, hws⟩ := List.forall_mem_cons.1 h
    obtain ⟨x, hx⟩ := unitGood_iff_ok.1 hw
    obtain ⟨hlen, hdata⟩ := ih hws
    rw [eventsOf_cons_ok hx]
    exact ⟨congrArg Nat.succ hlen, List.forall_mem_cons.2 ⟨⟨x, rfl⟩, hdata⟩⟩

/-- Decoding a stream without malformed units piece by piece is decoding it whole: the residue carries the incomplete
unit to the next piece. -/
theorem runInstrs_decodes (cs : List (List Byte)) (s : State) (hres : s.res.length ≤ 4)
    (hgood : ∀ w ∈ unitsOf (s.res ++ cs.flatten), unitGood w = true) :
    runInstrs (cs.map .decode) s = exec (.decode cs.flatten) s := by
  induction cs generalizing s with
  | nil =>
    have hshort := exec_decode_short [] s (by simp; omega)
    rw [List.append_nil] at hshort
    exact hshort.symm
  | cons c cs ih =>
    rw [List.flatten_cons, ← List.append_assoc, unitsOf_append, List.forall_mem_append] at hgood
    obtain ⟨hfirst, hrest⟩ := hgood
    have hrun : runInstrs ((c :: cs).map .decode) s = runInstrs (cs.map .decode) (s.runChunk c) := rfl
    rw [hrun, ih (s.runChunk c) (by rw [State.runChunk_res]; exact trailing_length_le _) (by rwa [State.runChunk_res]),
      exec_decode, exec_decode, runChunk_eq, List.flatten_cons, ← List.append_assoc, unitsOf_append (s.res ++ c),
      eventsOf_append_of_good hfirst, trailing_append (s.res ++ c), List.append_assoc]

/-- Settles O31. -/
theorem chunkingInvariance : Obligations.ChunkingInvariance := by
  unfold Obligations.ChunkingInvariance
  exact runInstrs_decodes

/-- Settles O29: a chunk of 256 bytes moves the residue on by one byte, and the five are one stream of 256 units. -/
theorem fiveChunksCarryWholeUnits : Obligations.FiveChunksCarryWholeUnits := by
  unfold Obligations.FiveChunksCarryWholeUnits
  intro c1 c2 c3 c4 c5 s hres h1 h2 h3 h4 h5
  refine ⟨s.runChunk c1, (s.runChunk c1).runChunk c2, ((s.runChunk c1).runChunk c2).runChunk c3,
    (((s.runChunk c1).runChunk c2).runChunk c3).runChunk c4,
    ((((s.runChunk c1).runChunk c2).runChunk c3).runChunk c4).runChunk c5, rfl, rfl, rfl, rfl, rfl, ?_, fun hgood => ?_⟩
  · simp only [List.map_cons, List.map_nil, State.runChunk_res, trailing_length, List.length_append, hres, h1, h2, h3,
      h4, h5, List.length_nil]
  · have hflat : [c1, c2, c3, c4, c5].flatten = c1 ++ c2 ++ c3 ++ c4 ++ c5 := by simp
    have hwhole := runInstrs_decodes [c1, c2, c3, c4, c5] s (by rw [hres]; exact Nat.zero_le 4)
      (by rw [hres, List.nil_append, hflat]; exact hgood)
    rw [exec_decode, hres, List.nil_append, hflat] at hwhole
    obtain ⟨hlen, hdata⟩ := eventsOf_of_good hgood
    refine ⟨eventsOf (unitsOf (c1 ++ c2 ++ c3 ++ c4 ++ c5)), congrArg State.evOffer (Host.Outcome.next.inj hwhole), ?_,
      hdata⟩
    rw [hlen, unitsOf_length]
    simp only [List.length_append, h1, h2, h3, h4, h5]

/-! #### The first malformed unit -/

theorem getElem?_unitsOf {q : List Byte} {k : Nat} (h : k < q.length / 5) :
    (unitsOf q)[k]? = some (unitWord ((q.drop (5 * k)).take 5)) := by
  rw [← unitsOf_length] at h
  have hk := List.getElem?_eq_getElem h
  rw [hk, eq_unitWord_of_getElem?_unitsOf hk]

/-- The events up to the first malformed unit: the samples before it, then its cause, and nothing of a later unit. -/
theorem eventsOf_of_first_error {ws : List UnitWord} {xs : List Sample} {w : UnitWord} {e : Cause}
    (hok : ∀ j, (h : j < xs.length) → ∃ v, ws[j]? = some v ∧ unitResult v = .ok xs[j])
    (hw : ws[xs.length]? = some w) (he : unitResult w = .error e) :
    eventsOf ws = xs.map .data ++ [.error e] := by
  induction xs generalizing ws with
  | nil =>
    cases ws with
    | nil => cases hw
    | cons v ws =>
      obtain rfl := Option.some.inj hw
      exact eventsOf_cons_error he ws
  | cons x xs ih =>
    cases ws with
    | nil => cases hw
    | cons v ws =>
      obtain ⟨v', hv', hx⟩ := hok 0 (Nat.zero_lt_succ _)
      obtain rfl := Option.some.inj hv'
      rw [eventsOf_cons_ok hx, ih (fun j h => hok (j + 1) (Nat.succ_lt_succ h)) hw]
      rfl

/-- Settles O30: DECODE is `exec_decode`, and its events then leave one a step. -/
theorem parseErrorEntry : Obligations.ParseErrorEntry := by
  unfold Obligations.ParseErrorEntry
  intro c s k e xs hk hxs hok herr
  have hev : eventsOf (unitsOf (s.res ++ c)) = xs.map .data ++ [.error e] := by
    refine eventsOf_of_first_error (fun j hj => ⟨_, getElem?_unitsOf (by omega), hok j hj⟩) (getElem?_unitsOf ?_) ?_
    · exact hxs ▸ hk
    · exact hxs ▸ herr
  have hdec := exec_decode c s
  rw [hev, ← List.append_assoc] at hdec
  refine ⟨hdec, fun t ht hready hrst => ?_⟩
  obtain rfl := Host.Outcome.next.inj (hdec.symm.trans ht)
  exact ⟨_, runSteps_drainEvents rfl hready hrst, rfl, by simp only [List.append_assoc], rfl, rfl⟩

/-! #### The streaming realisation -/

/-- The streaming realisation with `hold` held, `ABORT` at `abort` and the events `evs` produced, after the bytes `c`:
the trailing bytes are held, and the events of the units follow unless `ABORT` was set. -/
theorem foldl_streamByte (c hold : List Byte) (abort : Bool) (evs : List Event) (h : hold.length < 5) :
    (c.foldl Stream.byte { hold := hold, abort := abort, events := evs }).hold = trailing (hold ++ c) ∧
    (c.foldl Stream.byte { hold := hold, abort := abort, events := evs }).events =
      evs ++ if abort then [] else eventsOf (unitsOf (hold ++ c)) := by
  induction c generalizing hold abort evs with
  | nil => simp [trailing_short hold h, unitsOf_short hold h, eventsOf]
  | cons x c ih =>
    rw [List.foldl_cons, List.append_cons]
    by_cases hshort : (hold ++ [x]).length < 5
    · have hbyte : Stream.byte { hold := hold, abort := abort, events := evs } x =
          { hold := hold ++ [x], abort := abort, events := evs } := if_pos hshort
      rw [hbyte]
      exact ih (hold ++ [x]) abort evs hshort
    · have hfive : (hold ++ [x]).length = 5 := by
        rw [List.length_append] at hshort ⊢
        simp only [List.length_singleton] at hshort ⊢
        omega
      have hle : 5 ≤ (hold ++ [x] ++ c).length := by rw [List.length_append]; omega
      have htrail : trailing (hold ++ [x] ++ c) = trailing ([] ++ c) := by
        rw [trailing_long hle, List.drop_append_of_le_length hfive.ge, List.drop_of_length_le hfive.le]
      have hunits : unitsOf (hold ++ [x] ++ c) = unitWord (hold ++ [x]) :: unitsOf ([] ++ c) := by
        rw [unitsOf_long _ hle, List.take_append_of_le_length hfive.ge, List.take_of_length_le hfive.le,
          List.drop_append_of_le_length hfive.ge, List.drop_of_length_le hfive.le]
      rw [htrail, hunits]
      cases hr : unitResult (unitWord (hold ++ [x])) with
      | ok y =>
        have hbyte : Stream.byte { hold := hold, abort := abort, events := evs } x =
            { hold := [], abort := abort, events := if abort then evs else evs ++ [.data y] } := by
          simp only [Stream.byte, Config.unitBytes, hshort, if_false, hr]
        obtain ⟨hhold, hevents⟩ := ih [] abort (if abort then evs else evs ++ [.data y]) (by simp)
        rw [hbyte, eventsOf_cons_ok hr]
        refine ⟨hhold, hevents.trans ?_⟩
        cases abort <;> simp
      | error e =>
        have hbyte : Stream.byte { hold := hold, abort := abort, events := evs } x =
            { hold := [], abort := true, events := if abort then evs else evs ++ [.error e] } := by
          simp only [Stream.byte, Config.unitBytes, hshort, if_false, hr]
        obtain ⟨hhold, hevents⟩ := ih [] true (if abort then evs else evs ++ [.error e]) (by simp)
        rw [hbyte, eventsOf_cons_error hr]
        refine ⟨hhold, hevents.trans ?_⟩
        cases abort <;> simp

/-- Settles O32. -/
theorem streamingRealisationAgrees : Obligations.StreamingRealisationAgrees := by
  unfold Obligations.StreamingRealisationAgrees
  intro c s hres
  obtain ⟨hhold, hevents⟩ := foldl_streamByte c s.res false [] (Nat.lt_succ_of_le hres)
  rw [exec_decode, streamChunk, hhold, hevents]
  rfl

/-! #### The cursor -/

/-- The turns of DECODE's loop, the last one last. -/
theorem unitLoop_succ (buf : List Byte) (k : Nat) (cs : Cursor × State) :
    unitLoop buf (k + 1) cs = unitStep buf (unitLoop buf k cs) := by
  induction k generalizing cs with
  | zero => rfl
  | succ k ih => exact ih (unitStep buf cs)

/-- Where the cursor stands after `k` turns: behind `k` units that pass, or at one of them that fails, with `ABORT` set
(10_state.md R24, R25). -/
def CursorAt (buf : List Byte) (k : Nat) (c : Cursor) : Prop :=
  (c.abort = false ∧ c.pos = 5 * k) ∨
  (c.abort = true ∧ ∃ j < k, c.pos = 5 * j ∧ (unitResult (unitWord ((buf.drop c.pos).take 5))).isOk = false)

/-- One more turn. -/
theorem cursorAt_unitStep {buf : List Byte} {k : Nat} {cs : Cursor × State} (h : CursorAt buf k cs.1) :
    CursorAt buf (k + 1) (unitStep buf cs).1 := by
  obtain ⟨habort, hpos⟩ | ⟨habort, j, hj, hpos, hbad⟩ := h
  · have hturn : (unitStep buf cs).1 =
        cs.1.advance (unitWord ((buf.drop cs.1.pos).take 5)) (unitResult (unitWord ((buf.drop cs.1.pos).take 5))) := by
      rw [unitStep, if_neg (by simp [habort])]
      rfl
    rw [hturn]
    cases hr : unitResult (unitWord ((buf.drop cs.1.pos).take 5)) with
    | ok x => exact .inl ⟨habort, by rw [Cursor.advance, hpos]; rfl⟩
    | error e => exact .inr ⟨rfl, k, Nat.lt_succ_self k, hpos, congrArg Except.isOk hr⟩
  · rw [unitStep, if_pos habort]
    exact .inr ⟨habort, j, Nat.lt_succ_of_lt hj, hpos, hbad⟩

theorem cursorAt_unitLoop (buf : List Byte) (k : Nat) (s : State) :
    CursorAt buf k (unitLoop buf k (Cursor.cleared, s)).1 := by
  induction k with
  | zero => exact .inl ⟨rfl, rfl⟩
  | succ k ih =>
    rw [unitLoop_succ]
    exact cursorAt_unitStep ih

/-- Settles O33: the two places where the cursor can stand. -/
theorem cursorStaysOnUnits : Obligations.CursorStaysOnUnits := by
  unfold Obligations.CursorStaysOnUnits
  intro buf k s _ c
  obtain ⟨habort, hpos⟩ | ⟨habort, j, hj, hpos, hbad⟩ : CursorAt buf k c := cursorAt_unitLoop buf k s
  · exact ⟨by omega, by omega, fun _ => hpos, fun h => absurd (habort.symm.trans h) Bool.false_ne_true, by omega⟩
  · exact ⟨by omega, by omega, fun h => absurd (h.symm.trans habort) Bool.false_ne_true, fun _ => ⟨by omega, hbad⟩,
      by omega⟩

/-! #### A unit presented as a chunk of its own -/

/-- A chunk that is one unit, behind an empty residue, delivers the result of the unit. -/
theorem exec_decode_unit {u : List Byte} {s : State} (hu : u.length = 5) (hres : s.res = []) :
    exec (.decode u) s = .next (s.deliver (unitResult (unitWord u))) := by
  have hunits : unitsOf u = [unitWord u] := by
    rw [unitsOf_long u hu.ge, List.take_of_length_le hu.le, List.drop_of_length_le hu.le]
    rfl
  have htrail : trailing u = [] := List.eq_nil_of_length_eq_zero (by rw [trailing_length, hu])
  rw [exec_decode, hres, List.nil_append, hunits, htrail, ← hres]
  cases hr : unitResult (unitWord u) with
  | ok x => rw [eventsOf_cons_ok hr]; rfl
  | error e => rw [eventsOf_cons_error hr]; rfl

/-- 40 bits of the table are a scan unit (log entry 23). -/
theorem tableObject_unit (w : UnitWord) : tableObject 40 w.toNat = some (.unit (unitBytes w)) := by
  have hlen : (leBytes (40 / 8) w.toNat).length = 5 := leBytes_length 5 _
  simp only [tableObject, hlen, Config.unitBytes]
  rfl

/-- What presenting a unit places on the ports (log entry 2): its first four bytes received on the direct port and the
last one next, behind an empty residue. -/
theorem withFetchWord_unit {w : UnitWord} {a b c d e : Byte} (h : unitBytes w = [a, b, c, d, e]) (s : State) :
    s.withFetchWord 40 w.toNat =
      { s with
        res := [], evOffer := [], txOffer := [], frame := none, dcBuf := [a, b, c, d]
        pending := plain (.dcByte e true) :: s.pending } := by
  rw [State.withFetchWord, State.presentTableWord, tableObject_unit, h]
  rfl

/-- Settles O53: the step decodes the one unit, and the row of its word delivers the same result. -/
theorem presentedUnitRuns : Obligations.PresentedUnitRuns := by
  unfold Obligations.PresentedUnitRuns
  intro w s hdc
  obtain ⟨a, b, c, d, e, h⟩ : ∃ a b c d e, unitBytes w = [a, b, c, d, e] := ⟨_, _, _, _, _, rfl⟩
  have hw : unitWord ([a, b, c, d] ++ [e]) = w := (congrArg unitWord h.symm).trans (unitWord_unitBytes w)
  rw [withFetchWord_unit h, step_dcByte_last ⟨by simp [State.evCanLeave, State.evValid],
    by simp [State.txCanLeave, State.txValid]⟩ rfl rfl, exec_decode_unit rfl rfl, hw, exec_decodeUnit, ← hdc]

end Sys2Proof.Machine

/-! ### The event port (30_encoding.md R80 to R82, 60_exceptions.md R188) -/

namespace Sys2Proof.Machine

open Safety

/-- A payload that fits its 160 bits is the number on the port. -/
theorem bits_toNat {e : Event} (h : e.payload < 2 ^ 160) : e.bits.toNat = e.payload := by
  rw [Event.bits, BitVec.toNat_ofNat, Nat.mod_eq_of_lt h]

/-- A field of the event data is a digit of its payload. -/
theorem extract_bits {e : Event} {i n : Nat} {x : BitVec n} (h : e.payload < 2 ^ 160)
    (hx : e.payload / 2 ^ i % 2 ^ n = x.toNat) : e.bits.extractLsb' i n = x := by
  apply BitVec.eq_of_toNat_eq
  rw [BitVec.extractLsb'_toNat, Nat.shiftRight_eq_div_pow, bits_toNat h, hx]

/-- Byte `k` of a little-endian number is its digit to the base 256 (20_memory.md R43). -/
theorem leValue_digit (q : List Byte) (k : Nat) : leValue q / 256 ^ k % 256 = (q.getD k 0).toNat := by
  induction q generalizing k with
  | nil => simp [leValue]
  | cons x q ih =>
    have hx := x.isLt
    cases k with
    | zero =>
      simp only [leValue, pow_zero, Nat.div_one, List.getD_cons_zero]
      omega
    | succ k =>
      have hrest : leValue (x :: q) / 256 = leValue q := by
        simp only [leValue]
        omega
      rw [pow_succ', ← Nat.div_div_eq_div_mul, hrest, ih, List.getD_cons_succ]

/-- The info payload is the bytes at offsets 7 to 26 of its buffer, in order. -/
theorem info_byte (m f g h : Byte) {serial : List Byte} (hser : serial.length = 16) (k : Nat) :
    (Event.info m f g h serial).bits.extractLsb' (8 * k) 8 = (m :: f :: g :: h :: serial).getD k 0 := by
  have hlt := leValue_lt (m :: f :: g :: h :: serial)
  rw [show (m :: f :: g :: h :: serial).length = 20 by simp [hser]] at hlt
  refine extract_bits (by simpa [Event.payload] using hlt) ?_
  rw [pow_mul]
  exact leValue_digit (m :: f :: g :: h :: serial) k

/-- Settles O54: each field is a digit of the payload. -/
theorem eventPortLayout : Obligations.EventPortLayout := by
  unfold Obligations.EventPortLayout
  refine ⟨fun x v => ?_, fun m f g h serial hser => ?_, rfl, rfl, rfl, rfl, fun x => ?_, fun c => ?_, ⟨rfl, rfl, rfl⟩,
    rfl, rfl, rfl, rfl, rfl, rfl, rfl⟩
  · have hx := x.isLt
    have hv := v.isLt
    have hp : (Event.health x v).payload = x.toNat + 256 * v.toNat := rfl
    have hlt : (Event.health x v).payload < 2 ^ 160 := by omega
    refine ⟨rfl, extract_bits hlt ?_, extract_bits hlt ?_, ?_⟩
    · omega
    · omega
    · rw [bits_toNat hlt]
      omega
  · refine ⟨rfl, info_byte m f g h hser 0, info_byte m f g h hser 1, info_byte m f g h hser 2,
      info_byte m f g h hser 3, fun k _ => ?_⟩
    rw [show 32 + 8 * k = 8 * (k + 4) by omega]
    exact info_byte m f g h hser (k + 4)
  · have hs := Bool.toNat_lt x.start
    have hq := x.quality.isLt
    have ha := x.angleQ6.isLt
    have hd := x.distQ2.isLt
    have hp : (Event.data x).payload =
        x.start.toNat + 2 * x.quality.toNat + 128 * x.angleQ6.toNat + 4194304 * x.distQ2.toNat := rfl
    have hlt : (Event.data x).payload < 2 ^ 160 := by omega
    refine ⟨rfl, ?_, extract_bits hlt ?_, extract_bits hlt ?_, extract_bits hlt ?_, ?_⟩
    · rw [BitVec.getLsbD, bits_toNat hlt, Nat.testBit_eq_decide_div_mod_eq]
      cases hb : x.start <;> simp [hp, hb] <;> omega
    · omega
    · omega
    · omega
    · rw [bits_toNat hlt]
      omega
  · cases c <;> exact ⟨rfl, rfl, rfl⟩

end Sys2Proof.Machine
